-- ==== Sys2Proof/Word.lean ====
section
/-! DEFINITION. The data of the one-wire sampler/encoder: bytes, line levels, the inputs of one tick, and the closed set of
commands (spec/00_scope.md R5, R9; spec/30_encoding.md R46). -/

namespace Sys2Proof

/-- A byte: an unsigned integer 0 to 255, bit 0 the least significant (R9). -/
abbrev Byte := BitVec 8

/-- A bit of the line: true is high (1), false is low (0) (R9, R10). -/
abbrev Level := Bool

/-- The number `h` of R49: eight header samples written as a byte, the first sample most significant. -/
abbrev Header := BitVec 8

/-- The input record of one tick: in[t] = (rst[t], line[t]) (R5, R10). -/
structure TickIn where
  /-- The reset input: true forces the reset state (R10 b). -/
  rst  : Bool
  /-- The level of the one-wire line as the block sees it in this tick (R10 c). -/
  line : Level
  deriving DecidableEq, Repr, Inhabited

/-- The closed set of commands (R46), by their mnemonics of R56. -/
inductive Command where
  /-- Info request. -/
  | info
  /-- Poll. -/
  | poll
  /-- Read/Write memory pack. -/
  | rw
  /-- Reset. -/
  | reset
  deriving DecidableEq, Repr

end Sys2Proof
end

