-- ==== Sys2Proof/Syntax.lean ====
section
/-! DEFINITION. The instruction set: the four one-wire commands of spec/opcode_table.json, one constructor per row
(spec/00_scope.md R1, spec/30_encoding.md R46). -/

namespace Sys2Proof

/-- A command with the header samples its encoding leaves free. `p` holds samples 1 to 5 (the prefix, sample 1 most
significant); `d` holds the discarded tail samples. Both are consumed and never examined (R45). -/
inductive Instr where
  /-- INFO, `ppppp000`: A = 0, B = 0, C = 0 (R69). -/
  | info (p : BitVec 5)
  /-- POLL, `ppppp001`: A = 0, B = 0, C = 1 (R68). -/
  | poll (p : BitVec 5)
  /-- RW, `ppppp01d`: A = 0, B = 1; sample 8 is discarded (R67). -/
  | rw (p : BitVec 5) (d : BitVec 1)
  /-- RESET, `ppppp1dd`: A = 1; samples 7 and 8 are discarded (R66). -/
  | reset (p : BitVec 5) (d : BitVec 2)
  deriving DecidableEq, Repr

end Sys2Proof
end

