-- ==== Sys2Proof/Decode.lean ====
section
/-! DEFINITION. Decoding a header and encoding a command (spec/30_encoding.md R45, R46, R49, R50, R51,
spec/40_sampler_header.md R64). The machine itself never forms the number h (R49); the decoder stands for its three-way branch. -/

namespace Sys2Proof

/-- Why a list of samples is no header. -/
inductive DecodeError where
  /-- Fewer than the eight samples every header has (R44, R65); `taken` is how many there were. -/
  | shortHeader (taken : Nat)
  deriving DecidableEq, Repr

/-- The header samples of R49's number h, in time order: sample 1 is bit 7. -/
def headerSamples (h : Header) : List Level :=
  [h.getLsbD 7, h.getLsbD 6, h.getLsbD 5, h.getLsbD 4, h.getLsbD 3, h.getLsbD 2, h.getLsbD 1, h.getLsbD 0]

/-- The number h = v1*128 + v2*64 + ... + v8 of R49, from samples in time order. -/
def headerNumber (vs : List Level) : Header :=
  BitVec.ofNat 8 (vs.foldl (fun h v => 2 * h + v.toNat) 0)

/-- The instruction a header selects: RESET if A (bit 2), else RW if B (bit 1), else POLL if C (bit 0), else INFO
(R49, R64). Total: there is no illegal header (R50). -/
def decodeHeader (h : Header) : Instr :=
  if h.getLsbD 2 then .reset (h.extractLsb' 3 5) (h.extractLsb' 0 2)
  else if h.getLsbD 1 then .rw (h.extractLsb' 3 5) (h.extractLsb' 0 1)
  else if h.getLsbD 0 then .poll (h.extractLsb' 3 5)
  else .info (h.extractLsb' 3 5)

/-- Reads one instruction from samples in time order and returns it with the samples that follow the header (R44). -/
def decode : List Level → Except DecodeError (Instr × List Level)
  | v1 :: v2 :: v3 :: v4 :: v5 :: v6 :: v7 :: v8 :: rest =>
      .ok (decodeHeader (headerNumber [v1, v2, v3, v4, v5, v6, v7, v8]), rest)
  | short => .error (.shortHeader short.length)

/-- The instruction the decoder reads from the table word w, numbered as spec/opcode_table.json numbers it (bit 0 of h is
sample 8, R49). Every row has eight bits. -/
def decodeTableWord (nbits w : Nat) : Option Instr :=
  if nbits = 8 ∧ w < 256 then
    match decode (headerSamples (BitVec.ofNat 8 w)) with
    | .ok (i, _) => some i
    | .error _ => none
  else none

/-- The header of a command as the number h: the pattern of R46 with its free samples filled in. -/
def encodeHeader : Instr → Header
  | .info p => p ++ 0b000#3
  | .poll p => p ++ 0b001#3
  | .rw p d => p ++ 0b01#2 ++ d
  | .reset p d => p ++ 0b1#1 ++ d

/-- The eight header samples of a command, in time order (R46). -/
def encode (i : Instr) : List Level := headerSamples (encodeHeader i)

/-- The command of an instruction (R46). -/
def Instr.command : Instr → Command
  | .info _ => .info
  | .poll _ => .poll
  | .rw _ _ => .rw
  | .reset _ _ => .reset

/-- The number of the sample at which a command is classified: 6 for RESET, 7 for RW, 8 for POLL and INFO (R62, R63). -/
def Instr.decidedAt : Instr → Nat
  | .info _ => 8
  | .poll _ => 8
  | .rw _ _ => 7
  | .reset _ _ => 6

/-- R64: the command as a function of samples 6, 7 and 8. -/
def classifySamples (v6 v7 v8 : Level) : Command :=
  if v6 then .reset else if v7 then .rw else if v8 then .poll else .info

/-- The mask and match of R49 that select a command's headers. -/
def Command.maskMatch : Command → Header × Header
  | .info => (0x07#8, 0x00#8)
  | .poll => (0x07#8, 0x01#8)
  | .rw => (0x06#8, 0x02#8)
  | .reset => (0x04#8, 0x04#8)

end Sys2Proof
end

