-- ==== Sys2Proof/Config.lean ====
section
/-! DEFINITION. The configuration record cfg of spec/00_scope.md R7, and the model's free values: constants without a body
that stand for what the spec leaves unspecified. -/

namespace Sys2Proof

/-- The configuration record of R7, one field per row of its table, in the table's order. It is fixed at build time; a
state carries it unchanged (log entry 2). -/
structure Cfg where
  /-- SETTLE_TICKS: length of the settle interval in ticks, at least 1 (OPEN, D4). -/
  settleTicks : Nat
  /-- BUF_SLOTS: capacity of the capture buffer, at least 283 (OPEN, D7). -/
  bufSlots : Nat
  /-- SLOT_BITS: width of a slot (FIXED, 8). -/
  slotBits : Nat
  /-- CAPTURE_BASE: slot of the first stored sample (CHOSEN, 2; D6). -/
  captureBase : Nat
  /-- ENC_BASE: first slot the compact encoding reads (FIXED, 2). -/
  encBase : Nat
  /-- DBG_BASE: first slot the debug encoding reads (CHOSEN, 2; D11). -/
  dbgBase : Nat
  /-- DBG_BITS: number of bit characters of the debug encoding (FIXED, 32). -/
  dbgBits : Nat
  /-- DBG_GROUP: bit characters in a group of the debug encoding (FIXED, 8). -/
  dbgGroup : Nat
  /-- LEVEL_HIGH_CODE: the byte stored for a high level, not 0x00 (OPEN, D8). -/
  levelHighCode : Byte
  /-- TOKEN_ONE (OPEN, D10). -/
  tokenOne : Byte
  /-- TOKEN_ZERO (OPEN, D10). -/
  tokenZero : Byte
  /-- TOKEN_SPLIT, the frame terminator (OPEN, D10). -/
  tokenSplit : Byte
  /-- DEBUG_ENCODING: which of the two encodings the build has (OPEN, D23). -/
  debugEncoding : Bool
  /-- DBG_CHAR_ONE (CHOSEN, 0x31; D11). -/
  dbgCharOne : Byte
  /-- DBG_CHAR_ZERO (CHOSEN, 0x30; D11). -/
  dbgCharZero : Byte
  /-- DBG_FIELD_SEP (OPEN, D11). -/
  dbgFieldSep : Byte
  /-- DBG_GROUP_SEP (OPEN, D11). -/
  dbgGroupSep : Byte
  /-- DBG_NEWLINE (OPEN, D11). -/
  dbgNewline : Byte
  /-- IDLE_DELAY_TICKS: length of the idle delay in ticks (OPEN, D13). -/
  idleDelayTicks : Nat
  deriving DecidableEq, Repr

/-- The byte a slot of the capture buffer holds at power-up and keeps until a rule writes it: "an arbitrary function from
slot index to byte" (R29, R107, U3). FREE VALUE, log entry 4. -/
opaque Config.powerUp : Nat → Byte

/-- The inputs rst[t] and line[t] of a tick for which the state lists none: "the line and reset are free inputs (any
function from ticks to bits)" (R6). FREE VALUE, log entry 3. -/
opaque Config.freeInput : Nat → TickIn

/-- What tx_data carries in a tick without an emit: "unspecified" (R11, U6). FREE VALUE, log entry 6. -/
opaque Config.freeTxData : Nat → Byte

/-- BITS of a byte that is none of the four Command Types: "it has no value and no rule asks for it" (R47, U16).
FREE VALUE, log entry 8. -/
opaque Config.freeBits : Byte → Nat

/-- The natural number bits_rem - 1 for bits_rem = 0, which R71 never asks for in a reachable state (R16, R30).
FREE VALUE, log entry 9. -/
opaque Config.freeCount : Nat → Nat

/-- The byte a load gives from a slot index at or above BUF_SLOTS: such an access "has no meaning" (R9), no reachable state
asks for it (R78), and the tick goes on (R86). FREE VALUE, log entry 11. -/
opaque Config.noSlot : Nat → Byte

/-- The byte emitted by an encoder tick whose eidx lies past the end of the output list, which no reachable state has
(R20, R30). FREE VALUE, log entry 10. -/
opaque Config.freeByte : Nat → Byte

end Sys2Proof
end

