-- ==== Sys2Proof/Machine/Parameters.lean ====
section
/-! DEFINITION. The default column of the configuration table of spec/00_scope.md R7: what State.reset carries, and no more
than that (log entry 2). -/

namespace Sys2Proof.Machine

/-- The defaults of R7, "the value the test vectors of 95_test_vectors.md use unless a vector says otherwise".
DESIGN CHOICE, log entry 2: no statement rests on them. -/
def defaultCfg : Cfg where
  settleTicks := 2
  bufSlots := 283
  slotBits := 8
  captureBase := 2
  encBase := 2
  dbgBase := 2
  dbgBits := 32
  dbgGroup := 8
  levelHighCode := 0x01#8
  tokenOne := 0x31#8
  tokenZero := 0x00#8
  tokenSplit := 0x0A#8
  debugEncoding := false
  dbgCharOne := 0x31#8
  dbgCharZero := 0x30#8
  dbgFieldSep := 0x7C#8
  dbgGroupSep := 0x7C#8
  dbgNewline := 0x0A#8
  idleDelayTicks := 0

end Sys2Proof.Machine
end

