-- ==== Sys2Proof/Machine/State.lean ====
section
/-! DEFINITION. The state of the machine: the record S of spec/10_state.md R27, field by field, and four fields of the
model's own (configuration, inputs, tick number, output stream). -/

namespace Sys2Proof.Machine

/-- Why a step stops with a fault: for no reason, so there is no constructor. "The step function is total" (R86), and the
spec's own fault, Overrun, is a next state with `mode = FAULT` (R96). -/
inductive Fault where
  deriving DecidableEq, Repr

/-- Why the model gives a step no meaning. -/
inductive Refusal where
  /-- Raised by exec's arm of an instruction that has no meaning yet; no arm raises it. Safe. -/
  | notModelled (mnemonic : String)
  /-- Raised by step under a configuration that is not well formed: "The spec gives a meaning only to well-formed
  configurations; a model refuses any other" (R8). Safe. -/
  | illFormedConfiguration
  deriving DecidableEq, Repr

/-- The four values of mode (R13, R102). -/
inductive Mode where
  /-- The sampler owns the buffer. -/
  | sample
  /-- The encoder reads the buffer and emits bytes. -/
  | encode
  /-- The idle delay that replaces encoding when the header is not recognised. -/
  | idle
  /-- A buffer overrun was detected; nothing happens until reset. -/
  | fault
  deriving DecidableEq, Repr

/-- The two values of the spec's register `step` (R14), called `phase` here. -/
inductive Phase where
  /-- WAIT: the sampler waits for a falling edge. -/
  | wait
  /-- SETTLE: an edge was accepted and the settle interval is running. -/
  | settle
  deriving DecidableEq, Repr

/-- The capture buffer (R24): (slot, byte) cells at strictly rising slots. A slot is listed once a rule has written it; an
unlisted slot has no value of its own and holds its power-up byte (log entry 4). -/
structure Memory where
  /-- The written slots with their bytes, slots strictly rising. -/
  cells : List Host.Cell
  deriving DecidableEq, Repr

/-- The machine state: `mode` to `buf` are the record of R27; the last four fields are the model's own. -/
structure State where
  /-- `mode` (R13). -/
  mode : Mode
  /-- `step` (R14). -/
  phase : Phase
  /-- `hpos` (R15): header samples of the current frame already taken, 0 to 8. -/
  hpos : Nat
  /-- `known` (R22): the Command Type of the current frame has been assigned. -/
  known : Bool
  /-- `bits_rem` (R16): samples still to store, 0 to 281. -/
  bitsRem : Nat
  /-- `wp` (R17): the next buffer slot to store into, 0 to BUF_SLOTS. -/
  wp : Nat
  /-- `settle_cnt` (R18): remaining ticks of the settle interval, 0 to SETTLE_TICKS. -/
  settleCnt : Nat
  /-- `line_q` (R19): the level the line had at the previous tick. -/
  lineQ : Level
  /-- `eidx` (R20): index of the next byte of the output list to emit, 0 to 281. -/
  eidx : Nat
  /-- `idle_cnt` (R21): remaining ticks of the idle delay, 0 to IDLE_DELAY_TICKS. -/
  idleCnt : Nat
  /-- `fault_code` (R23): 0 no fault, 1 after a buffer overrun. -/
  faultCode : Nat
  /-- `buf` (R24): the capture buffer; slot 0 is the Command Type register (R25). -/
  buf : Memory
  /-- The model's own: the configuration, which no step changes (R7, R26; log entry 2). -/
  cfg : Cfg
  /-- The model's own: the inputs of the coming ticks, next tick first; past the list's end they are free (log entry 3). -/
  inputs : List TickIn
  /-- The model's own: the number t of the coming tick (R5). It selects free values and nothing else reads it. -/
  tick : Nat
  /-- The model's own: the output stream so far, oldest byte first (R11). No rule reads it back (R27; log entry 5). -/
  sent : List Byte
  deriving DecidableEq, Repr

/-- The machine right after a reset tick (R29, R105, R107): every register at the value of R29's table, no slot of the
buffer listed. The configuration is the default of R7 (log entry 2); no input is placed. -/
def State.reset : State where
  mode := .sample
  phase := .wait
  hpos := 0
  known := false
  bitsRem := 0
  wp := 2
  settleCnt := 0
  lineQ := false
  eidx := 0
  idleCnt := 0
  faultCode := 0
  buf := ⟨[]⟩
  cfg := defaultCfg
  inputs := []
  tick := 0
  sent := []

end Sys2Proof.Machine
end

