-- ==== Sys2Proof/Machine/Ops.lean ====
section
/-! DEFINITION. The named operations over the buffer and the registers: slot reads and writes (spec/20_memory.md), the passing
of a tick (R5, R19), emit (R11), the start of a frame (R87), fault entry (R96) and reset (R105). -/

namespace Sys2Proof.Machine

/-- Canonical form: the cells stand at strictly rising slots. An unlisted slot has no value of its own, so no entry can
repeat it and equal buffers are equal lists (log entry 4). -/
abbrev Memory.wf (m : Memory) : Prop := m.cells.Pairwise (fun a b => a.1 < b.1)

/-- Every listed slot is below n. -/
abbrev Memory.within (m : Memory) (n : Nat) : Prop := ∀ a ∈ m.cells, a.1 < n

/-- The byte listed for slot i, if the slot has been written. -/
def lookupCell : List Host.Cell → Nat → Option Byte
  | [], _ => none
  | (a, b) :: rest, i => if a = i then some b else lookupCell rest i

/-- The cells with slot i holding v, in canonical form. -/
def storeCell : List Host.Cell → Nat → Byte → List Host.Cell
  | [], i, v => [(i, v)]
  | (a, b) :: rest, i, v =>
    if i < a then (i, v) :: (a, b) :: rest
    else if i = a then (i, v) :: rest
    else (a, b) :: storeCell rest i v

/-- MemRead(i, 1) (R9): the byte written last to slot i, or the slot's power-up byte if no rule has written it (R24, R29). -/
def Memory.read (m : Memory) (i : Nat) : Byte := (lookupCell m.cells i).getD (Config.powerUp i)

/-- MemWrite(i, 1, v) (R9): slot i holds v from the next tick on, every other slot keeps its byte (R36). -/
def Memory.write (m : Memory) (i : Nat) (v : Byte) : Memory := ⟨storeCell m.cells i v⟩

/-- The input record of this tick: the next one listed, or a free one (R6; log entry 3). -/
def State.input (s : State) : TickIn :=
  match s.inputs with
  | [] => Config.freeInput s.tick
  | i :: _ => i

/-- Time passes: the tick's input is used up and the tick number counts on (R5). -/
def State.advance (s : State) : State := { s with inputs := s.inputs.tail, tick := s.tick + 1 }

/-- What every tick without reset does, "always, in every mode": line_q <- line[t] (R19, R86). -/
def State.tickOver (s : State) : State := { s.advance with lineQ := s.input.line }

/-- emit(b) (R9, R11): the tick carries byte b at the output port, so the output stream grows by b. -/
def State.emit (s : State) (b : Byte) : State := { s with sent := s.sent ++ [b] }

/-- ENTER_SAMPLE, the start of a frame (R87). It touches neither buf, line_q nor fault_code. -/
def State.enterSample (s : State) : State :=
  { s with mode := .sample, phase := .wait, hpos := 0, known := false, bitsRem := 0, wp := s.cfg.captureBase,
           settleCnt := 0, eidx := 0, idleCnt := 0 }

/-- raise Overrun(wp), the one fault entry (R96): mode and fault_code change, wp keeps the offending index (R94), and
nothing is saved anywhere. -/
def State.raiseOverrun (s : State) : State := { s with mode := .fault, faultCode := 1 }

/-- A reset tick (R105, R29), the only way out of the fault state (R97): the registers take their reset values, buf keeps
its bytes (R106) and nothing is emitted. -/
def State.resetTick (s : State) : State :=
  { s.advance with mode := .sample, phase := .wait, hpos := 0, known := false, bitsRem := 0, wp := s.cfg.captureBase,
                   settleCnt := 0, lineQ := false, eidx := 0, idleCnt := 0, faultCode := 0 }

end Sys2Proof.Machine
end

