-- ==== Sys2Proof/Machine/Operands.lean ====
section
/-! DEFINITION. How values are built from samples, codes and slots: the command table CODE and BITS (spec/30_encoding.md R46,
R47), the stored level (spec/20_memory.md R33), and the zero test every reader of a slot uses (spec/00_scope.md R9). -/

namespace Sys2Proof.Machine

/-- nz(v): the byte is not 0x00 (R9). -/
def nz (v : Byte) : Bool := v != 0x00#8

/-- lvl(b): the byte stored for a sampled level (R9, R33). -/
def lvl (c : Cfg) (v : Level) : Byte := if v then c.levelHighCode else 0x00#8

/-- A load by the encoder: the byte of slot i, a free byte where the buffer has no slot i (R9, R78; log entry 11). -/
def load (c : Cfg) (m : Memory) (i : Nat) : Byte := if i < c.bufSlots then m.read i else Config.noSlot i

/-- CODE: the Command Type byte of a command (R46). -/
def code : Command → Byte
  | .info => 0x00#8
  | .poll => 0x01#8
  | .rw => 0x02#8
  | .reset => 0xFF#8

/-- BITS where it is defined: exactly for the four Command Type bytes (R46, R47). -/
def bits? (b : Byte) : Option Nat :=
  if b = 0x00#8 then some 25
  else if b = 0x01#8 then some 33
  else if b = 0x02#8 then some 281
  else if b = 0xFF#8 then some 25
  else none

/-- BITS(b), a free number where the table gives none (R47; log entry 8). -/
def bits (b : Byte) : Nat := (bits? b).getD (Config.freeBits b)

/-- RECOGNIZED(b): b is one of the four Command Type bytes (R47). -/
def recognized (b : Byte) : Bool := (bits? b).isSome

/-- bits_rem - 1, a free number for bits_rem = 0 (R71; log entry 9). -/
def State.countDown (s : State) : Nat := if s.bitsRem = 0 then Config.freeCount s.tick else s.bitsRem - 1

end Sys2Proof.Machine
end

