-- ==== Sys2Proof/Machine/Compact.lean ====
section
/-! DEFINITION. The output list of the compact encoding (spec/42_encoder_compact.md), a pure function of the buffer. -/

namespace Sys2Proof.Machine

/-- TOKEN(v): only zero against non-zero is tested (R76). -/
def token (c : Cfg) (v : Byte) : Byte := if nz v then c.tokenOne else c.tokenZero

/-- CMP_SEQ(buf): one token per captured sample, from slot ENC_BASE up, then the terminator (R77, R78). -/
def cmpSeq (c : Cfg) (m : Memory) : List Byte :=
  (List.range (bits (m.read 0))).map (fun i => token c (load c m (c.encBase + i))) ++ [c.tokenSplit]

end Sys2Proof.Machine
end

