-- ==== Sys2Proof/Machine/Debug.lean ====
section
/-! DEFINITION. The output list of the debug encoding (spec/43_encoder_debug.md), a pure function of the buffer. -/

namespace Sys2Proof.Machine

/-- The character of a decimal digit: 0x30 + d (R81). -/
def digit (d : Nat) : Byte := BitVec.ofNat 8 (0x30 + d)

/-- dec(b): the decimal digits of a byte, most significant first, without leading zeros (R81). -/
def dec (b : Byte) : List Byte :=
  let n := b.toNat
  if n < 10 then [digit n]
  else if n < 100 then [digit (n / 10), digit (n % 10)]
  else [digit (n / 100), digit (n / 10 % 10), digit (n % 10)]

/-- DBGCHAR(v): only zero against non-zero is tested (R82). -/
def dbgChar (c : Cfg) (v : Byte) : Byte := if nz v then c.dbgCharOne else c.dbgCharZero

/-- What the debug encoding sends for bit character i: a group separator before every group but the first, then the
character of slot DBG_BASE + i, whatever frame wrote it (R83, R85). The slot is at most 33, and the buffer has it (R7). -/
def dbgItem (c : Cfg) (m : Memory) (i : Nat) : List Byte :=
  (if 0 < i ∧ i % c.dbgGroup = 0 then [c.dbgGroupSep] else []) ++ [dbgChar c (m.read (c.dbgBase + i))]

/-- DBG_SEQ(buf) (R83). -/
def dbgSeq (c : Cfg) (m : Memory) : List Byte :=
  dec (m.read 0) ++ [c.dbgFieldSep] ++ (List.range c.dbgBits).flatMap (dbgItem c m) ++ [c.dbgNewline]

end Sys2Proof.Machine
end

