-- ==== Sys2Proof/Machine/Flags.lean ====
section
/-! DEFINITION. Conditions and flags: the falling edge (spec/40_sampler_header.md R57), the status outputs sampling and fault
(spec/10_state.md R12), and classification, the one writer of the flag known (spec/40_sampler_header.md R63). -/

namespace Sys2Proof.Machine

/-- fall(t): the line was high at the previous tick and is low at this one (R57). -/
def State.fall (s : State) : Bool := s.lineQ && !s.input.line

/-- The status output `sampling` (R12). -/
def State.sampling (s : State) : Bool := s.mode = .sample

/-- The status output `fault` (R12). -/
def State.faultOut (s : State) : Bool := s.mode = .fault

/-- classify(c): slot 0 gets the Command Type, bits_rem the bit count, and known is set (R63). -/
def State.classify (s : State) (c : Command) : State :=
  { s with buf := s.buf.write 0 (code c), bitsRem := bits (code c), known := true }

end Sys2Proof.Machine
end

