-- ==== Sys2Proof/Machine/Sequencer.lean ====
section
/-! DEFINITION. The frame sequencer's own rules (spec/44_sequencer.md): the hand-off, the output list of a frame, the encoder
tick with the byte port (spec/10_state.md R11), the idle tick, and the tick of the fault state (spec/60_exceptions.md R97). -/

namespace Sys2Proof.Machine

/-- The hand-off (R88). `type` is slot 0 as it stood before the tick. -/
def State.handOff (s : State) (type : Byte) : State :=
  if recognized type then { s with mode := .encode, eidx := 0 }
  else if s.cfg.idleDelayTicks = 0 then s.enterSample
  else { s with mode := .idle, idleCnt := s.cfg.idleDelayTicks }

/-- OUT(buf): the frame's output list in the encoding of the build (R55, R89). -/
def outList (c : Cfg) (m : Memory) : List Byte := if c.debugEncoding then dbgSeq c m else cmpSeq c m

/-- OUT(buf)[eidx]; a free byte past the list's end (R90; log entry 10). -/
def State.outByte (s : State) : Byte := ((outList s.cfg s.buf)[s.eidx]?).getD (Config.freeByte s.tick)

/-- The encoder tick (R90): one byte of the output list is emitted, and the last one starts the next frame. -/
def encoderTick (s : State) : Host.Outcome State Fault Refusal :=
  if s.eidx + 1 = (outList s.cfg s.buf).length then .next (s.tickOver.emit s.outByte).enterSample
  else .next { s.tickOver.emit s.outByte with eidx := s.eidx + 1 }

/-- The idle tick (R91). -/
def idleTick (s : State) : Host.Outcome State Fault Refusal :=
  if s.idleCnt ≤ 1 then .next s.tickOver.enterSample
  else .next { s.tickOver with idleCnt := s.idleCnt - 1 }

/-- A tick of the fault state: nothing changes except line_q (R97). -/
def faultTick (s : State) : Host.Outcome State Fault Refusal := .next s.tickOver

/-- The output port `tx_valid` of this tick: a byte is emitted in ENCODE unless the tick is a reset tick (R11). -/
def State.txValid (s : State) : Bool := decide (s.mode = .encode) && !s.input.rst

/-- The output port `tx_data` of this tick; a free byte when tx_valid is 0 (R11; log entry 6). -/
def State.txData (s : State) : Byte := if s.txValid then s.outByte else Config.freeTxData s.tick

end Sys2Proof.Machine
end

