-- ==== Sys2Proof/Machine/Capture.lean ====
section
/-! DEFINITION. The generic read phase (spec/41_sampler_capture.md): the loop all four commands share (R73). -/

namespace Sys2Proof.Machine

/-- The registers and the buffer after a store that is in range: the sample goes to slot wp, wp and bits_rem count (R71, R72). -/
def State.storeSample (s : State) : State :=
  { s.tickOver with buf := s.buf.write s.wp (lvl s.cfg s.input.line), wp := s.wp + 1, bitsRem := s.countDown }

/-- A capture sample event (R71): the overrun check comes before the store and replaces it (R95, R101); the store that
brings the count to zero hands off in the same tick, reading slot 0 as it stood before the tick (R88). -/
def State.captureSample (s : State) : State :=
  if s.cfg.bufSlots ≤ s.wp then s.tickOver.raiseOverrun
  else if s.countDown = 0 then s.storeSample.handOff (s.buf.read 0)
  else { s.storeSample with phase := .wait }

end Sys2Proof.Machine
end

