-- ==== Sys2Proof/Machine/Header.lean ====
section
/-! DEFINITION. The meanings of the four commands (spec/40_sampler_header.md R66 to R69). A command is spread over many ticks;
its meaning is the tick of the next sample event of a frame whose header it is (log entry 1): one of the eight header events
of R62 while hpos < 8, a capture event of the shared read phase when hpos = 8 (R61). -/

namespace Sys2Proof.Machine

/-- The last lines of R62, common to every header event: the sample is counted, the sampler waits again, and the eighth
sets wp to CAPTURE_BASE. -/
def State.countHeaderSample (s : State) : State :=
  { s with hpos := s.hpos + 1, phase := .wait, wp := if s.hpos + 1 = 8 then s.cfg.captureBase else s.wp }

/-- A sample event of a frame of command c, classified at its sample number k; every other header sample is consumed and
discarded (R62, R65). With hpos above 8 neither rule of R61 applies and only line_q changes (log entry 7). -/
def commandSample (c : Command) (k : Nat) (s : State) : Host.Outcome State Fault Refusal :=
  if s.hpos < 8 then
    .next (if s.hpos + 1 = k then s.tickOver.classify c else s.tickOver).countHeaderSample
  else if s.hpos = 8 then .next s.captureSample
  else .next s.tickOver

/-- INFO (R69): classified at sample 8, A = B = C = 0; the prefix is never examined. -/
def execInfo (_p : BitVec 5) (s : State) : Host.Outcome State Fault Refusal := commandSample .info 8 s

/-- POLL (R68): classified at sample 8, C = 1; the prefix is never examined. -/
def execPoll (_p : BitVec 5) (s : State) : Host.Outcome State Fault Refusal := commandSample .poll 8 s

/-- RW (R67): classified at sample 7, B = 1; the prefix and sample 8 are never examined. -/
def execRw (_p : BitVec 5) (_d : BitVec 1) (s : State) : Host.Outcome State Fault Refusal := commandSample .rw 7 s

/-- RESET (R66): classified at sample 6, A = 1; the prefix and samples 7 and 8 are never examined. -/
def execReset (_p : BitVec 5) (_d : BitVec 2) (s : State) : Host.Outcome State Fault Refusal := commandSample .reset 6 s

end Sys2Proof.Machine
end

