-- ==== Sys2Proof/Machine/Dispatch.lean ====
section
/-! DEFINITION. One arm per command (spec/opcode_table.json). -/

namespace Sys2Proof.Machine

/-- The meaning of a command in a state: the tick of its next sample event (log entry 1). -/
def exec (i : Instr) (s : State) : Host.Outcome State Fault Refusal :=
  match i with
  | .info p => Sys2Proof.Machine.execInfo p s
  | .poll p => Sys2Proof.Machine.execPoll p s
  | .rw p d => Sys2Proof.Machine.execRw p d s
  | .reset p d => Sys2Proof.Machine.execReset p d s

end Sys2Proof.Machine
end

