-- ==== Sys2Proof/Machine/Tick.lean ====
section
/-! DEFINITION. The ticks of SAMPLE (spec/40_sampler_header.md R57 to R62): waiting for an edge, the settle interval, the
fetch of the command in flight, and the sample event. -/

namespace Sys2Proof.Machine

/-- What the control state and this tick's sample say of the header, written as R49's number h: the sample stands at its
own place, and a command already known shows as A = 1, since R62 then discards samples 7 and 8 whatever the command.
Samples that the machine has discarded, or not yet taken, read as 0 (log entry 1). -/
def State.headerInFlight (s : State) : Header :=
  (if s.known && decide (6 ≤ s.hpos) then 0x04#8 else 0x00#8) ||| ((if s.input.line then 0x80#8 else 0x00#8) >>> s.hpos)

/-- Fetch and decode: the command whose sample event this tick is. -/
def State.inFlight (s : State) : Instr := decodeHeader s.headerInFlight

/-- A sample event (R61): the header rule while hpos < 8, the capture rule at hpos = 8. With hpos above 8 neither applies
and only line_q changes (log entry 7). -/
def sampleTick (s : State) : Host.Outcome State Fault Refusal :=
  if s.hpos < 8 then exec s.inFlight s
  else if s.hpos = 8 then .next s.captureSample
  else .next s.tickOver

/-- Waiting for an edge (R58): a falling edge is accepted and loads the settle counter; there is no timeout (R99). -/
def waitTick (s : State) : Host.Outcome State Fault Refusal :=
  if s.fall then .next { s.tickOver with settleCnt := s.cfg.settleTicks, phase := .settle }
  else .next s.tickOver

/-- The settle interval (R59): the sample is taken at the tick where the counter is 1, and falling edges are ignored. With
the counter at 0 neither case applies and only line_q changes (log entry 7). -/
def settleTick (s : State) : Host.Outcome State Fault Refusal :=
  if 1 < s.settleCnt then .next { s.tickOver with settleCnt := s.settleCnt - 1 }
  else if s.settleCnt = 1 then sampleTick s
  else .next s.tickOver

/-- The two cases of SAMPLE in R86. -/
def samplerTick (s : State) : Host.Outcome State Fault Refusal :=
  match s.phase with
  | .wait => waitTick s
  | .settle => settleTick s

/-- The four cases of R86 for a tick without reset. -/
def modeTick (s : State) : Host.Outcome State Fault Refusal :=
  match s.mode with
  | .sample => samplerTick s
  | .encode => encoderTick s
  | .idle => idleTick s
  | .fault => faultTick s

/-- The input records that give one sample of level v to a sampler that waits: a high tick, the falling edge, and the settle
interval of k ticks ending in the sample (R57 to R60). -/
def sampleCell (k : Nat) (v : Level) : List TickIn :=
  [⟨false, true⟩, ⟨false, false⟩] ++ List.replicate k ⟨false, v⟩

/-- The input records that give a list of samples, in time order. -/
def lineScript (k : Nat) (vs : List Level) : List TickIn := vs.flatMap (sampleCell k)

/-- The state one tick before the classifying sample event of the header w: the earlier samples of w have been taken and
discarded, this tick's line carries the deciding sample, and the line then carries the rest of w, edge by edge. -/
def State.placeHeader (s : State) (w : Header) : State :=
  let k := (decodeHeader w).decidedAt
  let vs := (headerSamples w).drop (k - 1)
  { s with mode := .sample, phase := .settle, hpos := k - 1, known := false, settleCnt := 1,
           inputs := (vs.take 1).map (fun v => ⟨false, v⟩) ++ lineScript s.cfg.settleTicks (vs.drop 1) }

end Sys2Proof.Machine
end

