-- ==== Sys2Proof/WellFormed.lean ====
section
/-! DEFINITION. What is well formed: configurations (spec/00_scope.md R8), and instructions (spec/30_encoding.md R50: there is
no illegal header, so the operand types are the only bound). -/

namespace Sys2Proof

/-- A configuration is well formed when every constraint in the table of R7 holds (R8). -/
abbrev Cfg.Wf (c : Cfg) : Prop :=
  1 ≤ c.settleTicks ∧ 283 ≤ c.bufSlots ∧ c.slotBits = 8 ∧ c.captureBase = 2 ∧ c.encBase = 2 ∧ c.dbgBase = 2 ∧
  c.dbgBits = 32 ∧ c.dbgGroup = 8 ∧ c.levelHighCode ≠ 0x00#8 ∧ c.tokenOne ≠ c.tokenZero ∧ c.tokenSplit ≠ c.tokenOne ∧
  c.tokenSplit ≠ c.tokenZero ∧ c.dbgCharOne = 0x31#8 ∧ c.dbgCharZero = 0x30#8

/-- Every instruction is well formed: the four rows of R49 "are pairwise disjoint and together select all 256 values of h"
(R50), and the operands are bit vectors of exactly the width the pattern gives them. -/
def Instr.wellFormed : Instr → Bool
  | .info _ => true
  | .poll _ => true
  | .rw _ _ => true
  | .reset _ _ => true

end Sys2Proof
end

