-- ==== Sys2Proof/Machine/Step.lean ====
section
/-! DEFINITION. One tick (spec/44_sequencer.md R86), and the placing of a command where the next tick runs it. -/

namespace Sys2Proof.Machine

/-- One tick (R86): a configuration that is not well formed is refused (R8); reset wins over everything (R101); otherwise
the mode decides. -/
def step (s : State) : Host.Outcome State Fault Refusal :=
  if s.cfg.Wf then
    if s.input.rst then .next s.resetTick else modeTick s
  else .refused .illFormedConfiguration

/-- s with the header w arriving on the line so that the very next tick is the sample event that classifies it. The
machine fetches no words (R42); its instruction comes from the line, so this sets the sampler's position and the coming line
levels (log entry 1). Every row of the opcode table has eight bits; bits above them are not looked at. -/
def State.withFetchWord (s : State) (_nbits w : Nat) : State := s.placeHeader (BitVec.ofNat 8 w)

end Sys2Proof.Machine
end

