-- ==== Sys2Proof/Safety.lean ====
section
/-! DEFINITION. What the claims speak of: the situations of a tick, runs of ticks, the invariant of spec/10_state.md R30, and
what two states agree on. -/

namespace Sys2Proof.Machine

/-- The listed inputs of a stretch of ticks hold no reset. -/
abbrev NoReset (is : List TickIn) : Prop := ∀ x ∈ is, x.rst = false

/-- The next tick is a sample event (R59): SAMPLE, SETTLE, the settle counter at 1, no reset. -/
abbrev State.AtSample (s : State) : Prop :=
  s.mode = .sample ∧ s.phase = .settle ∧ s.settleCnt = 1 ∧ s.input.rst = false

/-- The machine is at the start of a frame: it waits for the first header edge (R87). -/
abbrev State.AtFrameStart (s : State) : Prop :=
  s.mode = .sample ∧ s.phase = .wait ∧ s.hpos = 0 ∧ s.known = false

/-- The command i is in flight at the next header sample event: the sample on the line is the one i has there, and a command
is known exactly if i was classified by an earlier sample (R62, R63). -/
abbrev State.Carries (s : State) (i : Instr) : Prop :=
  s.hpos < 8 ∧ (encode i)[s.hpos]? = some s.input.line ∧ s.known = decide (i.decidedAt ≤ s.hpos)

/-- n ticks (spec/44_sequencer.md R86, R93), stopping at the first fault or refusal. -/
def run : Nat → State → Host.Outcome State Fault Refusal
  | 0, s => .next s
  | n + 1, s =>
    match step s with
    | .next t => run n t
    | .fault f => .fault f
    | .refused r => .refused r

/-- The sample events of one frame of command i, n of them in a row, without the waiting between them. -/
def execTimes (i : Instr) : Nat → State → Host.Outcome State Fault Refusal
  | 0, s => .next s
  | n + 1, s =>
    match exec i s with
    | .next t => execTimes i n t
    | .fault f => .fault f
    | .refused r => .refused r

/-- The listed inputs hold neither a reset nor a falling edge, where `q` is the line's level before them (R57, R99). -/
def NoFall : Level → List TickIn → Prop
  | _, [] => True
  | q, x :: is => x.rst = false ∧ ¬(q = true ∧ x.line = false) ∧ NoFall x.line is

/-- The level the line has after the listed inputs, where `q` is its level before them (R19). -/
def lastLine (q : Level) (is : List TickIn) : Level := ((is.getLast?).map (fun x => x.line)).getD q

/-- s after a tick without reset in which nothing but line_q changes: the input record is used up and line_q holds the line
(R5, R19, R86). -/
abbrev State.onlyLine (s : State) : State :=
  { s with inputs := s.inputs.tail, tick := s.tick + 1, lineQ := s.input.line }

/-- What no header event touches, and what every tick without reset does (R9, R19, R62, R70). -/
abbrev State.HeaderFrame (s t : State) : Prop :=
  t.mode = s.mode ∧ t.settleCnt = s.settleCnt ∧ t.eidx = s.eidx ∧ t.idleCnt = s.idleCnt ∧ t.faultCode = s.faultCode ∧
  t.cfg = s.cfg ∧ t.sent = s.sent ∧ t.inputs = s.inputs.tail ∧ t.tick = s.tick + 1 ∧ t.lineQ = s.input.line

/-- t follows s by a header event of a frame that is classified at sample k, with Command Type `type` and n samples to store:
slot 0, bits_rem and known change at sample k and only there, no other slot ever does, and sample 8 sets wp (R62, R63). -/
abbrev State.TakesHeaderSample (s t : State) (k : Nat) (type : Byte) (n : Nat) : Prop :=
  s.HeaderFrame t ∧ t.hpos = s.hpos + 1 ∧ t.phase = .wait ∧
  t.wp = (if s.hpos + 1 = 8 then s.cfg.captureBase else s.wp) ∧
  (s.hpos + 1 = k → t.buf.read 0 = type ∧ t.bitsRem = n ∧ t.known = true) ∧
  (s.hpos + 1 ≠ k → t.buf.read 0 = s.buf.read 0 ∧ t.bitsRem = s.bitsRem ∧ t.known = s.known) ∧
  ∀ a, a ≠ 0 → t.buf.read a = s.buf.read a

/-- The tokens the compact encoding sends for samples, in time order (R76, R80). -/
def tokensOf (c : Cfg) (vs : List Level) : List Byte := vs.map (fun v => if v then c.tokenOne else c.tokenZero)

/-- The stored form of a sample: 0x00 or LEVEL_HIGH_CODE (R33). -/
abbrev IsStored (c : Cfg) (b : Byte) : Prop := b = 0x00#8 ∨ b = c.levelHighCode

/-- The invariant of R30, with the ranges of R15 to R21 and the canonical form of the buffer. -/
structure State.Inv (s : State) : Prop where
  /-- The configuration is well formed (R8). -/
  cfgWf : s.cfg.Wf
  /-- The buffer is in canonical form. -/
  bufWf : s.buf.wf
  /-- Only slots of the buffer have been written (R24). -/
  bufWithin : s.buf.within s.cfg.bufSlots
  /-- R30 items 7 and 8: FAULT and IDLE are unreachable. -/
  modeLive : s.mode = .sample ∨ s.mode = .encode
  /-- R23: no fault has occurred. -/
  noFault : s.faultCode = 0
  /-- R30 item 1. -/
  hposLe : s.hpos ≤ 8
  /-- R16's range. -/
  bitsRemLe : s.bitsRem ≤ 281
  /-- R30 item 7: wp <= 283. -/
  wpLe : s.wp ≤ 283
  /-- R18's range. -/
  settleLe : s.settleCnt ≤ s.cfg.settleTicks
  /-- R20's range. -/
  eidxLe : s.eidx ≤ 281
  /-- R21's range. -/
  idleLe : s.idleCnt ≤ s.cfg.idleDelayTicks
  /-- R59: the settle counter is at least 1 while the settle interval runs. -/
  settlePos : s.mode = .sample → s.phase = .settle → 1 ≤ s.settleCnt
  /-- R30 item 2. -/
  unknownEarly : s.mode = .sample → s.hpos ≤ 5 → s.known = false
  /-- R30 item 3. -/
  knownType : s.mode = .sample → s.known = true → recognized (s.buf.read 0) = true
  /-- R17: wp stands at CAPTURE_BASE through the header. -/
  headerWp : s.mode = .sample → s.hpos < 8 → s.wp = s.cfg.captureBase
  /-- R30 item 5. -/
  headerBits : s.mode = .sample → s.hpos < 8 → s.known = true → s.bitsRem = bits (s.buf.read 0)
  /-- R30 item 4. -/
  captureCount : s.mode = .sample → s.hpos = 8 → s.known = true ∧ 1 ≤ s.bitsRem ∧
    s.bitsRem ≤ bits (s.buf.read 0) ∧ s.wp + s.bitsRem = s.cfg.captureBase + bits (s.buf.read 0)
  /-- R33: what the read phase has stored so far are stored levels. -/
  captureSlots : s.mode = .sample → s.hpos = 8 →
    ∀ i, s.cfg.captureBase ≤ i → i < s.wp → IsStored s.cfg (s.buf.read i)
  /-- R30 item 6. -/
  encoding : s.mode = .encode → recognized (s.buf.read 0) = true ∧ s.eidx < (outList s.cfg s.buf).length ∧
    ∀ i, s.cfg.captureBase ≤ i → i < s.cfg.captureBase + bits (s.buf.read 0) → IsStored s.cfg (s.buf.read i)

/-- Two states that differ only in the byte stored for a high level: every slot is zero in both or in neither, slot 0 and
everything else is the same (R33). -/
structure State.SameButHighCode (s t : State) : Prop where
  /-- The registers, inputs and output agree. -/
  rest : t = { s with buf := t.buf, cfg := { s.cfg with levelHighCode := t.cfg.levelHighCode } }
  /-- Slot 0 agrees. -/
  type : t.buf.read 0 = s.buf.read 0
  /-- Every slot is zero in both or in neither. -/
  zero : ∀ i, nz (t.buf.read i) = nz (s.buf.read i)

end Sys2Proof.Machine
end

