-- ==== Sys2Proof/Certificates/Slice0/Obligations.lean ====
section
/-! DEFINITION. The statements for the provers. Each docstring names the rules of spec/ it formalises; where a statement
rests on a choice of the model it names the log entry. -/

open Sys2Proof Sys2Proof.Machine

/-! ### The encoding -/

/-- Decoding the eight samples of a command gives it back with every operand, and leaves what follows (R46, R49). -/
def Obligations.DecodeGivesBackEncoded : Prop :=
  ∀ (i : Instr) (rest : List Level), i.wellFormed = true →
    decode (encode i ++ rest) = .ok (i, rest) ∧ decodeHeader (encodeHeader i) = i

/-- Any eight samples are the header of an instruction whose encoding they are; fewer are rejected by name (R50). -/
def Obligations.EveryEightSamplesAreAHeader : Prop :=
  ∀ vs : List Level,
    (8 ≤ vs.length → ∃ i rest, decode vs = .ok (i, rest) ∧ i.wellFormed = true ∧ encode i ++ rest = vs) ∧
    (vs.length < 8 → decode vs = .error (.shortHeader vs.length))

/-- R49: the number h, the one row that selects it, and how many of the 256 values each row selects. -/
def Obligations.HeaderTableRowsPartition : Prop :=
  (∀ v1 v2 v3 v4 v5 v6 v7 v8 : Level, (headerNumber [v1, v2, v3, v4, v5, v6, v7, v8]).toNat =
    v1.toNat * 128 + v2.toNat * 64 + v3.toNat * 32 + v4.toNat * 16 + v5.toNat * 8 + v6.toNat * 4 + v7.toNat * 2 + v8.toNat) ∧
  (∀ (h : Header) (c : Command), h &&& c.maskMatch.1 = c.maskMatch.2 ↔ c = (decodeHeader h).command) ∧
  (∀ c : Command, c.maskMatch = match c with
    | .reset => (0x04#8, 0x04#8) | .rw => (0x06#8, 0x02#8) | .poll => (0x07#8, 0x01#8) | .info => (0x07#8, 0x00#8)) ∧
  (∀ c : Command, ((List.range 256).filter
    (fun n => (decodeHeader (BitVec.ofNat 8 n)).command = c)).length = match c with
    | .reset => 128 | .rw => 64 | .poll => 32 | .info => 32)

/-- A few header words, written out from the patterns of R46, decode to the commands they stand for. -/
def Obligations.KnownHeaderWordsDecode : Prop :=
  decodeTableWord 8 0b00000000 = some (.info 0b00000#5) ∧ decodeTableWord 8 0b11111000 = some (.info 0b11111#5) ∧
  decodeTableWord 8 0b00000001 = some (.poll 0b00000#5) ∧ decodeTableWord 8 0b10101001 = some (.poll 0b10101#5) ∧
  decodeTableWord 8 0b00000010 = some (.rw 0b00000#5 0b0#1) ∧ decodeTableWord 8 0b11111011 = some (.rw 0b11111#5 0b1#1) ∧
  decodeTableWord 8 0b00000100 = some (.reset 0b00000#5 0b00#2) ∧
  decodeTableWord 8 0b00001110 = some (.reset 0b00001#5 0b10#2)

/-- CODE and BITS are the table of R46, and RECOGNIZED is membership in the four codes (R47). -/
def Obligations.CommandTableIsR46 : Prop :=
  (code .info = 0x00#8 ∧ code .poll = 0x01#8 ∧ code .rw = 0x02#8 ∧ code .reset = 0xFF#8) ∧
  (bits (code .info) = 25 ∧ bits (code .poll) = 33 ∧ bits (code .rw) = 281 ∧ bits (code .reset) = 25) ∧
  ∀ b : Byte, recognized b = true ↔ ∃ c : Command, b = code c

/-! ### Commands: what a step runs, and what each command does -/

/-- At a header sample event the step runs the command in flight, whatever command that is: every i that the sample on the
line and the control state agree with (R61, R62; log entry 1). -/
def Obligations.StepRunsCommandInFlight : Prop :=
  ∀ (i : Instr) (s : State), s.cfg.Wf → s.AtSample → s.Carries i → step s = exec i s

/-- A header placed on the line is the command the very next step runs (log entry 1). -/
def Obligations.StepRunsPlacedHeader : Prop :=
  ∀ (s : State) (w : Nat) (i : Instr), s.cfg.Wf → decodeTableWord 8 w = some i →
    (s.withFetchWord 8 w).AtSample ∧ (s.withFetchWord 8 w).Carries i ∧
    step (s.withFetchWord 8 w) = exec i (s.withFetchWord 8 w)

/-- Each command's header events, at every position 0 to 7 in the header and for every prefix and discarded tail: INFO and
POLL are classified at sample 8, RW at 7, RESET at 6, and nothing else changes (one line of the pseudocode of R66 to R69 per
event). That exec is one such event, of the command it is given, and reads neither known nor the sample, is THE MODEL'S CHOICE
(log entry 1); a step runs it where the state carries that command (StepRunsCommandInFlight). -/
def Obligations.HeaderSampleOfEachCommand : Prop :=
  ∀ s : State, s.hpos < 8 →
    (∀ p, ∃ t, exec (.info p) s = .next t ∧ s.TakesHeaderSample t 8 0x00#8 25) ∧
    (∀ p, ∃ t, exec (.poll p) s = .next t ∧ s.TakesHeaderSample t 8 0x01#8 33) ∧
    (∀ p d, ∃ t, exec (.rw p d) s = .next t ∧ s.TakesHeaderSample t 7 0x02#8 281) ∧
    (∀ p d, ∃ t, exec (.reset p d) s = .next t ∧ s.TakesHeaderSample t 6 0xFF#8 25)

/-- The whole header of a command, eight sample events from hpos 0: slot 0 holds its Command Type, bits_rem its count, known is
set, hpos is 8, the sampler waits and wp is CAPTURE_BASE; no other slot and no other register changes, except line_q, of which
this says nothing (R65 to R69). The eight events stand in eight ticks in a row, without the waiting and settling between them
that R60 asks of the machine: exec is the event alone, THE MODEL'S CHOICE (log entry 1). -/
def Obligations.WholeHeaderOfEachCommand : Prop :=
  ∀ (i : Instr) (s : State), s.hpos = 0 → ∃ t, execTimes i 8 s = .next t ∧
    t.buf.read 0 = code i.command ∧ t.bitsRem = bits (code i.command) ∧ t.known = true ∧ t.hpos = 8 ∧ t.phase = .wait ∧
    t.wp = s.cfg.captureBase ∧ (∀ a, a ≠ 0 → t.buf.read a = s.buf.read a) ∧
    t.mode = s.mode ∧ t.settleCnt = s.settleCnt ∧ t.eidx = s.eidx ∧ t.idleCnt = s.idleCnt ∧ t.faultCode = s.faultCode ∧
    t.cfg = s.cfg ∧ t.sent = s.sent ∧ t.inputs = s.inputs.drop 8 ∧ t.tick = s.tick + 8

/-- The header event in full: the pseudocode of R62 with R63, at every position and for every value of the sample and of
known. -/
def Obligations.HeaderSampleIsR62 : Prop :=
  ∀ s : State, s.cfg.Wf → s.AtSample → s.hpos < 8 →
    let k := s.hpos + 1
    let v := s.input.line
    let u : State := s.onlyLine
    let classify (c : Command) : State :=
      { u with buf := u.buf.write 0 (code c), bitsRem := bits (code c), known := true }
    let r : State :=
      if k = 6 ∧ v = true then classify .reset
      else if k = 7 ∧ s.known = false ∧ v = true then classify .rw
      else if k = 8 ∧ s.known = false ∧ v = true then classify .poll
      else if k = 8 ∧ s.known = false ∧ v = false then classify .info
      else u
    step s = .next { r with hpos := k, phase := .wait, wp := if k = 8 then s.cfg.captureBase else s.wp }

/-- A capture sample event that is in range, for every command alike: the sample is stored at wp and nowhere else, wp and
bits_rem count, the sampler waits again (R71, R73); the last store hands off in the same tick (R88). That exec of every command
is this tick is THE MODEL'S CHOICE (log entry 1). -/
def Obligations.CaptureSampleStores : Prop :=
  ∀ (i : Instr) (s : State), s.cfg.Wf → s.AtSample → s.hpos = 8 → s.wp < s.cfg.bufSlots → 1 ≤ s.bitsRem →
    ∃ t, step s = .next t ∧ exec i s = .next t ∧
      t.buf.read s.wp = lvl s.cfg s.input.line ∧ (∀ a, a ≠ s.wp → t.buf.read a = s.buf.read a) ∧
      (2 ≤ s.bitsRem → t = { s.onlyLine with buf := t.buf, wp := s.wp + 1, bitsRem := s.bitsRem - 1, phase := .wait }) ∧
      (s.bitsRem = 1 → recognized (s.buf.read 0) = true →
        t = { s.onlyLine with buf := t.buf, wp := s.wp + 1, bitsRem := 0, mode := .encode, eidx := 0 }) ∧
      (s.bitsRem = 1 → recognized (s.buf.read 0) = false → s.cfg.idleDelayTicks = 0 →
        t = { s.onlyLine with
            buf := t.buf, wp := s.cfg.captureBase, bitsRem := 0, mode := .sample, phase := .wait, hpos := 0,
            known := false, settleCnt := 0, eidx := 0, idleCnt := 0 }) ∧
      (s.bitsRem = 1 → recognized (s.buf.read 0) = false → 0 < s.cfg.idleDelayTicks →
        t = { s.onlyLine with
            buf := t.buf, wp := s.wp + 1, bitsRem := 0, mode := .idle, idleCnt := s.cfg.idleDelayTicks })

/-- Fault entry: a store attempted at or past BUF_SLOTS is not performed; mode and fault_code change, everything else is kept,
nothing is emitted, and the outputs show the fault from the next tick (R96). That exec of every command is this tick is THE
MODEL'S CHOICE (log entry 1). -/
def Obligations.OverrunEntersFaultState : Prop :=
  ∀ (i : Instr) (s : State), s.cfg.Wf → s.AtSample → s.hpos = 8 → s.cfg.bufSlots ≤ s.wp →
    ∃ t, step s = .next t ∧ exec i s = .next t ∧
      t = { s.onlyLine with mode := .fault, faultCode := 1 } ∧
      t.faultOut = true ∧ t.sampling = false ∧ s.txValid = false

/-- What a command's sample event does where no rule gives its effect, in states no run reaches. THE MODEL'S CHOICE: with hpos
above 8 only line_q changes (log entry 7); a count of zero has a free predecessor, and the rest of R71 follows from it, for
each of its values (log entry 9). -/
def Obligations.SampleEventsOutsideTheRanges : Prop :=
  ∀ (i : Instr) (s : State),
    (8 < s.hpos → exec i s = .next s.onlyLine) ∧
    (s.hpos = 8 → s.wp < s.cfg.bufSlots → s.bitsRem = 0 →
      let u : State := { s.onlyLine with
        buf := s.buf.write s.wp (lvl s.cfg s.input.line), wp := s.wp + 1, bitsRem := Config.freeCount s.tick }
      (Config.freeCount s.tick = 0 → exec i s = .next (u.handOff (s.buf.read 0))) ∧
      (Config.freeCount s.tick ≠ 0 → exec i s = .next { u with phase := .wait }))

/-! ### Ticks -/

/-- A reset tick, whatever the state and the line: the table of R29, the buffer and the output stream unchanged (R105). -/
def Obligations.ResetTickForcesResetState : Prop :=
  ∀ s : State, s.cfg.Wf → s.input.rst = true →
    ∃ t, step s = .next t ∧ t.mode = .sample ∧ t.phase = .wait ∧ t.hpos = 0 ∧ t.known = false ∧ t.bitsRem = 0 ∧ t.wp = 2 ∧
      t.settleCnt = 0 ∧ t.lineQ = false ∧ t.eidx = 0 ∧ t.idleCnt = 0 ∧ t.faultCode = 0 ∧ t.buf = s.buf ∧
      s.txValid = false ∧ t.sent = s.sent ∧ t.sampling = true ∧ t.faultOut = false ∧ t.cfg = s.cfg

/-- The state after reset has the values of R29's table. The free power-up bytes of its buffer are the model's form of "an
arbitrary byte" (log entry 4). -/
def Obligations.ResetStateHasTheTableValues : Prop :=
  State.reset.mode = .sample ∧ State.reset.phase = .wait ∧ State.reset.hpos = 0 ∧ State.reset.known = false ∧
  State.reset.bitsRem = 0 ∧ State.reset.wp = 2 ∧ State.reset.settleCnt = 0 ∧ State.reset.lineQ = false ∧
  State.reset.eidx = 0 ∧ State.reset.idleCnt = 0 ∧ State.reset.faultCode = 0 ∧ State.reset.sampling = true ∧
  State.reset.faultOut = false ∧ State.reset.txValid = false ∧ ∀ i, State.reset.buf.read i = Config.powerUp i

/-- A configuration that is not well formed is refused, and no other is (R8). -/
def Obligations.IllFormedConfigurationIsRefused : Prop :=
  ∀ s : State, (¬ s.cfg.Wf → step s = .refused .illFormedConfiguration) ∧
    (s.cfg.Wf → ∀ r, step s ≠ .refused r)

/-- Waiting for an edge: high before and low now is accepted, anything else changes only line_q (R57, R58). -/
def Obligations.WaitTickAcceptsFallingEdge : Prop :=
  ∀ s : State, s.cfg.Wf → s.input.rst = false → s.mode = .sample → s.phase = .wait →
    (s.lineQ = true ∧ s.input.line = false → step s = .next { s.onlyLine with settleCnt := s.cfg.settleTicks, phase := .settle }) ∧
    (¬(s.lineQ = true ∧ s.input.line = false) → step s = .next s.onlyLine)

/-- The settle interval counts down and ignores edges until its counter is 1 (R59). -/
def Obligations.SettleTickCountsDown : Prop :=
  ∀ s : State, s.cfg.Wf → s.input.rst = false → s.mode = .sample → s.phase = .settle → 1 < s.settleCnt →
    step s = .next { s.onlyLine with settleCnt := s.settleCnt - 1 }

/-- The sample of an edge accepted at tick e is taken at tick e + SETTLE_TICKS, whatever the line does in between (R60). -/
def Obligations.SampleComesSettleTicksAfterEdge : Prop :=
  ∀ (s : State) (e y : TickIn) (is rest : List TickIn), s.cfg.Wf → s.mode = .sample → s.phase = .wait →
    s.inputs = e :: (is ++ y :: rest) → is.length + 1 = s.cfg.settleTicks → NoReset (e :: (is ++ [y])) →
    s.lineQ = true → e.line = false →
    ∃ t, run s.cfg.settleTicks s = .next t ∧ t.AtSample ∧ t.input = y ∧ t.inputs = y :: rest ∧ t.hpos = s.hpos ∧
      t.known = s.known ∧ t.bitsRem = s.bitsRem ∧ t.wp = s.wp ∧ t.buf = s.buf ∧ t.sent = s.sent ∧ t.cfg = s.cfg

/-- A silent line: as long as no falling edge comes the machine waits, changing nothing but line_q; no timeout (R99). -/
def Obligations.SilentLineWaitsForever : Prop :=
  ∀ (s : State) (is rest : List TickIn), s.cfg.Wf → s.mode = .sample → s.phase = .wait → s.inputs = is ++ rest →
    NoFall s.lineQ is →
    run is.length s = .next { s with inputs := rest, tick := s.tick + is.length, lineQ := lastLine s.lineQ is }

/-- The fault state is final: without reset nothing changes except line_q, however long it lasts; a reset tick leaves it and
clears fault_code (R97). -/
def Obligations.FaultStateIsFinal : Prop :=
  (∀ (s : State) (is rest : List TickIn), s.cfg.Wf → s.mode = .fault → s.inputs = is ++ rest → NoReset is →
    run is.length s = .next { s with inputs := rest, tick := s.tick + is.length, lineQ := lastLine s.lineQ is }) ∧
  (∀ s : State, s.cfg.Wf → s.mode = .fault → s.input.rst = true →
    ∃ t, step s = .next t ∧ t.mode = .sample ∧ t.faultCode = 0)

/-- The encoder tick: byte eidx of the frame's output list is at the port, and the last byte starts the next frame (R90, R87),
whatever slot 0 holds. -/
def Obligations.EncoderTickSendsOneByte : Prop :=
  ∀ (s : State) (b : Byte), s.cfg.Wf → s.input.rst = false → s.mode = .encode → (outList s.cfg s.buf)[s.eidx]? = some b →
    s.txValid = true ∧ s.txData = b ∧
    (s.eidx + 1 = (outList s.cfg s.buf).length → step s = .next { s.onlyLine with
        sent := s.sent ++ [b], mode := .sample, phase := .wait, hpos := 0, known := false, bitsRem := 0,
        wp := s.cfg.captureBase, settleCnt := 0, eidx := 0, idleCnt := 0 }) ∧
    (s.eidx + 1 ≠ (outList s.cfg s.buf).length → step s = .next { s.onlyLine with sent := s.sent ++ [b], eidx := s.eidx + 1 })

/-- Encoding sends the rest of the output list in order, one byte per tick, and ends at the start of a frame with the buffer
unchanged (R90, R89). -/
def Obligations.EncodingSendsOutputList : Prop :=
  ∀ (s : State) (is rest : List TickIn), s.cfg.Wf → s.mode = .encode → s.inputs = is ++ rest → NoReset is → s.eidx + is.length = (outList s.cfg s.buf).length → is ≠ [] →
    ∃ t, run is.length s = .next t ∧ t.sent = s.sent ++ (outList s.cfg s.buf).drop s.eidx ∧ t.AtFrameStart ∧
      t.buf = s.buf ∧ t.inputs = rest ∧ t.cfg = s.cfg ∧ t.faultCode = s.faultCode ∧ t.lineQ = lastLine s.lineQ is

/-- The step function is total (R86): under a well-formed configuration every state, reachable or not, and every input give
a next state and at most one output byte. -/
def Obligations.EveryTickAnswersANextState : Prop :=
  ∀ s : State, s.cfg.Wf → ∃ t, step s = .next t ∧ (t.sent = s.sent ∨ ∃ b, t.sent = s.sent ++ [b])

/-- The encoder tick that loads from a slot the buffer has not: the token is that of a free byte, and the tick goes on. THE
MODEL'S CHOICE (log entries 8 and 11): R9 gives the access no meaning, and it takes an unrecognised slot 0. -/
def Obligations.MissingSlotLoadsAreFree : Prop :=
  ∀ s : State, s.cfg.Wf → s.input.rst = false → s.mode = .encode → s.cfg.debugEncoding = false →
    s.eidx < bits (s.buf.read 0) → s.cfg.bufSlots ≤ 2 + s.eidx →
    recognized (s.buf.read 0) = false ∧
    step s = .next { s.onlyLine with
      sent := s.sent ++ [token s.cfg (Config.noSlot (2 + s.eidx))], eidx := s.eidx + 1 }

/-- The idle delay: n ticks with idle_cnt at n (one tick also at 0), no byte, then ENTER_SAMPLE (R91). -/
def Obligations.IdleDelayLastsItsTicks : Prop :=
  ∀ (s : State) (is rest : List TickIn), s.cfg.Wf → s.mode = .idle → s.inputs = is ++ rest → NoReset is →
    (is.length < max 1 s.idleCnt → run is.length s = .next { s with
        inputs := rest, tick := s.tick + is.length, lineQ := lastLine s.lineQ is, idleCnt := s.idleCnt - is.length }) ∧
    (is.length = max 1 s.idleCnt → run is.length s = .next { s with
        inputs := rest, tick := s.tick + is.length, lineQ := lastLine s.lineQ is, mode := .sample, phase := .wait,
        hpos := 0, known := false, bitsRem := 0, wp := s.cfg.captureBase, settleCnt := 0, eidx := 0, idleCnt := 0 })

/-- A byte is at the output port exactly in ENCODE ticks without reset, and the output stream is the bytes at the port in tick
order (R11). -/
def Obligations.OutputStreamIsThePortsBytes : Prop :=
  ∀ s t : State, step s = .next t →
    (s.txValid = true ↔ s.mode = .encode ∧ s.input.rst = false) ∧
    t.sent = s.sent ++ (if s.txValid = true then [s.txData] else [])

/-- line_q holds the previous tick's level in every mode, 0 after a reset tick (R19). -/
def Obligations.LineRegisterFollowsLine : Prop :=
  ∀ s t : State, step s = .next t → t.lineQ = (if s.input.rst = true then false else s.input.line)

/-- Every tick takes one input record and no step changes the configuration: nothing can stall the machine or write its
parameters (R26, R86, R100). -/
def Obligations.EveryTickTakesOneInput : Prop :=
  ∀ s t : State, step s = .next t → t.inputs = s.inputs.tail ∧ t.tick = s.tick + 1 ∧ t.cfg = s.cfg

/-- The four modes: how each is left, when a byte is emitted, and when the buffer may change (R13, R102). -/
def Obligations.ModesChangeOnlyAsListed : Prop :=
  ∀ s t : State, step s = .next t →
    (s.sampling = true ↔ s.mode = .sample) ∧ (s.faultOut = true ↔ s.mode = .fault) ∧
    (s.input.rst = true → t.mode = .sample) ∧
    (s.input.rst = false → s.mode = .encode → t.mode = .encode ∨ t.mode = .sample) ∧
    (s.input.rst = false → s.mode = .idle → t.mode = .idle ∨ t.mode = .sample) ∧
    (s.input.rst = false → s.mode = .fault → t.mode = .fault) ∧
    (t.mode ≠ s.mode → s.mode = .sample → s.phase = .settle ∧ s.settleCnt = 1 ∧ s.hpos = 8) ∧
    (s.mode ≠ .encode → t.sent = s.sent) ∧ (s.mode ≠ .sample → t.buf = s.buf)

/-- The complete list of buffer writes: a header event writes at most slot 0, a capture event writes only slot wp, nothing
else writes; slot 1 is never written (R37). -/
def Obligations.BufferIsWrittenOnlyBySampleEvents : Prop :=
  ∀ s t : State, s.Inv → step s = .next t →
    (¬ s.AtSample → t.buf = s.buf) ∧
    (s.AtSample → s.hpos < 8 → ∀ a, a ≠ 0 → t.buf.read a = s.buf.read a) ∧
    (s.AtSample → s.hpos = 8 → ∀ a, a ≠ s.wp → t.buf.read a = s.buf.read a) ∧
    t.buf.read 1 = s.buf.read 1

/-! ### Invariants -/

/-- The invariant of R30 holds in the state after reset. -/
def Obligations.InvariantHoldsAtReset : Prop := State.reset.Inv

/-- From every state with the invariant of R30 a step answers a next state, and that has the invariant. -/
def Obligations.InvariantKeptByEveryStep : Prop :=
  ∀ s : State, s.Inv → (∃ t, step s = .next t) ∧ ∀ t, step s = .next t → t.Inv

/-- No run from a state with the invariant ends in a fault, a refusal, FAULT or IDLE, whatever the inputs (R92, R98). -/
def Obligations.FaultAndIdleAreUnreachable : Prop :=
  ∀ (n : Nat) (s : State), s.Inv → ∃ t, run n s = .next t ∧ t.mode ≠ .fault ∧ t.mode ≠ .idle ∧ t.faultCode = 0 ∧
    t.wp ≤ 283 ∧ t.eidx ≤ 281

/-- fault_code is nonzero exactly in FAULT, in every state a step gives from such a state (R23). -/
def Obligations.FaultCodeMirrorsFaultMode : Prop :=
  ∀ s t : State, (s.faultCode = 0 ∨ s.faultCode = 1) → (s.faultCode ≠ 0 ↔ s.mode = .fault) → step s = .next t →
    (t.faultCode = 0 ∨ t.faultCode = 1) ∧ (t.faultCode ≠ 0 ↔ t.mode = .fault)

/-- Every step keeps the buffer's canonical form and its bounds, in every state, and so does every command. The canonical form
is THE MODEL'S CHOICE (log entry 4); the bounds are the slots of R24. -/
def Obligations.BufferStaysCanonicalAndInBounds : Prop :=
  ∀ s : State, s.cfg.Wf → s.buf.wf → s.buf.within s.cfg.bufSlots →
    (∀ t, step s = .next t → t.buf.wf ∧ t.buf.within t.cfg.bufSlots) ∧
    (∀ i t, exec i s = .next t → t.buf.wf ∧ t.buf.within t.cfg.bufSlots)

/-! ### The output lists -/

/-- TOKEN and DBGCHAR test only zero against non-zero (R76, R82). -/
def Obligations.SlotCharactersTestOnlyZero : Prop :=
  ∀ (c : Cfg) (v : Byte),
    token c v = (if v = 0x00#8 then c.tokenZero else c.tokenOne) ∧
    (c.Wf → dbgChar c v = (if v = 0x00#8 then 0x30#8 else 0x31#8))

/-- Length and alphabet of the compact list: N + 1 bytes, tokens, and the terminator exactly once, at the end (R79). -/
def Obligations.CompactListLengthAndAlphabet : Prop :=
  ∀ (c : Cfg) (m : Memory), c.Wf → recognized (m.read 0) = true →
    (cmpSeq c m).length = bits (m.read 0) + 1 ∧
    (∀ e, e < bits (m.read 0) → (cmpSeq c m)[e]? = some c.tokenOne ∨ (cmpSeq c m)[e]? = some c.tokenZero) ∧
    (∀ e, (cmpSeq c m)[e]? = some c.tokenSplit ↔ e = bits (m.read 0)) ∧
    (m.read 0 = code .info ∨ m.read 0 = code .reset → (cmpSeq c m).length = 26) ∧
    (m.read 0 = code .poll → (cmpSeq c m).length = 34) ∧ (m.read 0 = code .rw → (cmpSeq c m).length = 282)

/-- The decimal text of a byte: its digits, most significant first, without leading zeros (R81). -/
def Obligations.DecimalTextOfByte : Prop :=
  (∀ b : Byte, (∀ d ∈ dec b, 0x30 ≤ d.toNat ∧ d.toNat ≤ 0x39) ∧
    (dec b).foldl (fun n d => 10 * n + (d.toNat - 0x30)) 0 = b.toNat ∧
    (dec b).length = (if b.toNat ≤ 9 then 1 else if b.toNat ≤ 99 then 2 else 3)) ∧
  dec 0x00#8 = [0x30#8] ∧ dec 0x01#8 = [0x31#8] ∧ dec 0x02#8 = [0x32#8] ∧ dec 0xFF#8 = [0x32#8, 0x35#8, 0x35#8]

/-- The debug list by position (R84). -/
def Obligations.DebugListByPosition : Prop :=
  ∀ (c : Cfg) (m : Memory), c.Wf →
    (dbgSeq c m).length = (dec (m.read 0)).length + 37 ∧
    (∀ e, e < (dec (m.read 0)).length → (dbgSeq c m)[e]? = (dec (m.read 0))[e]?) ∧
    (dbgSeq c m)[(dec (m.read 0)).length]? = some c.dbgFieldSep ∧
    (∀ j, j < 35 → (dbgSeq c m)[(dec (m.read 0)).length + 1 + j]? =
      some (if j % 9 = 8 then c.dbgGroupSep else dbgChar c (m.read (c.dbgBase + (j - j / 9))))) ∧
    (dbgSeq c m)[(dec (m.read 0)).length + 36]? = some c.dbgNewline ∧
    (m.read 0 = code .info ∨ m.read 0 = code .poll ∨ m.read 0 = code .rw → (dbgSeq c m).length = 38) ∧
    (m.read 0 = code .reset → (dbgSeq c m).length = 40)

/-! ### Whole frames, tick by tick -/

/-- The sampler as a function of the samples: a line that carries a command's header and vs, edge by edge, leaves the Command
Type in slot 0 and the samples in slots 2 up, in time order, and every other slot as it was. With all N samples the frame is
handed to the encoder; with fewer the machine waits on (R74). -/
def Obligations.SampledFrameFillsBuffer : Prop :=
  ∀ (s : State) (i : Instr) (vs : List Level) (rest : List TickIn),
    s.cfg.Wf → s.AtFrameStart → vs.length ≤ bits (code i.command) →
    s.inputs = lineScript s.cfg.settleTicks (encode i ++ vs) ++ rest →
    ∃ t, run ((8 + vs.length) * (s.cfg.settleTicks + 2)) s = .next t ∧
      t.buf.read 0 = code i.command ∧ (∀ j v, vs[j]? = some v → t.buf.read (2 + j) = lvl s.cfg v) ∧
      (∀ a, a ≠ 0 → ¬(2 ≤ a ∧ a < 2 + vs.length) → t.buf.read a = s.buf.read a) ∧
      t.hpos = 8 ∧ t.known = true ∧ t.wp = 2 + vs.length ∧ t.bitsRem = bits (code i.command) - vs.length ∧
      t.inputs = rest ∧ t.sent = s.sent ∧ t.cfg = s.cfg ∧ t.faultCode = s.faultCode ∧
      (vs.length < bits (code i.command) → t.mode = .sample ∧ t.phase = .wait) ∧
      (vs.length = bits (code i.command) → t.mode = .encode ∧ t.eidx = 0)

/-- Round trip of the compact build: a frame's samples come out as the same sequence of ONE and ZERO tokens, in time order,
then one SPLIT, and the next frame starts (R80, R77, R90). -/
def Obligations.CompactFrameRoundTrip : Prop :=
  ∀ (s : State) (i : Instr) (vs : List Level) (quiet rest : List TickIn),
    s.cfg.Wf → s.cfg.debugEncoding = false → s.AtFrameStart → vs.length = bits (code i.command) →
    s.inputs = lineScript s.cfg.settleTicks (encode i ++ vs) ++ quiet ++ rest → NoReset quiet →
    quiet.length = vs.length + 1 →
    ∃ t, run ((8 + vs.length) * (s.cfg.settleTicks + 2) + (vs.length + 1)) s = .next t ∧
      t.sent = s.sent ++ tokensOf s.cfg vs ++ [s.cfg.tokenSplit] ∧ t.AtFrameStart ∧ t.inputs = rest ∧ t.cfg = s.cfg

/-- A frame of the debug build: the Command Type as decimal text and 32 bit characters, of which those past the frame's own
samples show the slots as they stood before the frame (R83, R85). -/
def Obligations.DebugFrameShowsStaleSlots : Prop :=
  ∀ (s : State) (i : Instr) (vs : List Level) (quiet rest : List TickIn),
    s.cfg.Wf → s.cfg.debugEncoding = true → s.AtFrameStart → vs.length = bits (code i.command) →
    s.inputs = lineScript s.cfg.settleTicks (encode i ++ vs) ++ quiet ++ rest → NoReset quiet →
    quiet.length = (dec (code i.command)).length + 37 →
    ∃ t, run ((8 + vs.length) * (s.cfg.settleTicks + 2) + quiet.length) s = .next t ∧
      t.sent = s.sent ++ dec (code i.command) ++ [s.cfg.dbgFieldSep] ++
        (List.range 32).flatMap (fun j => (if 0 < j ∧ j % 8 = 0 then [s.cfg.dbgGroupSep] else []) ++
          [((vs[j]?).map (fun v => if v then 0x31#8 else 0x30#8)).getD
            (if s.buf.read (2 + j) = 0x00#8 then 0x30#8 else 0x31#8)]) ++ [s.cfg.dbgNewline] ∧
      t.AtFrameStart ∧ t.inputs = rest ∧ t.cfg = s.cfg

/-! ### What cannot be observed -/

/-- LEVEL_HIGH_CODE cannot affect the output stream: two machines that differ only in it stay so, step by step, and send the
same bytes (R33). -/
def Obligations.HighLevelCodeIsInvisible : Prop :=
  ∀ s t s' : State, s.Inv → t.Inv → s.SameButHighCode t → step s = .next s' →
    ∃ t', step t = .next t' ∧ s'.SameButHighCode t' ∧ t'.sent = s'.sent ∧ t.txValid = s.txValid

/-- The output stream is never read back: a machine that has sent other bytes before does the same step and sends the same
byte (R27). -/
def Obligations.OutputIsNeverReadBack : Prop :=
  ∀ (s t : State) (earlier : List Byte), step s = .next t →
    step { s with sent := earlier ++ s.sent } = .next { t with sent := earlier ++ t.sent }
end

