-- ==== Sys2Proof/Laws/Memory.lean ====
section
/-! SUPPORT. The laws of the capture buffer: read after write, and that a write keeps the canonical form. -/

namespace Sys2Proof.Machine

theorem lookupCell_storeCell_same (cs : List Host.Cell) (i : Nat) (v : Byte) :
    lookupCell (storeCell cs i v) i = some v := by
  induction cs with
  | nil => simp [storeCell, lookupCell]
  | cons c rest ih =>
    obtain ⟨a, b⟩ := c
    simp only [storeCell]
    split
    · simp [lookupCell]
    · split
      · simp [lookupCell]
      · have : a ≠ i := by omega
        simp [lookupCell, this, ih]

theorem lookupCell_storeCell_other {i j : Nat} (h : j ≠ i) (cs : List Host.Cell) (v : Byte) :
    lookupCell (storeCell cs i v) j = lookupCell cs j := by
  induction cs with
  | nil => simp [storeCell, lookupCell, Ne.symm h]
  | cons c rest ih =>
    obtain ⟨a, b⟩ := c
    simp only [storeCell]
    split
    · simp [lookupCell, Ne.symm h]
    · split
      · next he => subst he; simp [lookupCell, Ne.symm h]
      · simp [lookupCell, ih]

@[simp] theorem Memory.read_write_same (m : Memory) (i : Nat) (v : Byte) : (m.write i v).read i = v := by
  simp [Memory.read, Memory.write, lookupCell_storeCell_same]

@[simp] theorem Memory.read_write_other {i j : Nat} (h : j ≠ i) (m : Memory) (v : Byte) :
    (m.write i v).read j = m.read j := by
  simp [Memory.read, Memory.write, lookupCell_storeCell_other h]

theorem Memory.read_write (m : Memory) (i j : Nat) (v : Byte) :
    (m.write i v).read j = if j = i then v else m.read j := by
  by_cases h : j = i
  · subst h; simp
  · simp [h]

/-- Every cell of a stored buffer is the stored one or an old one. -/
theorem mem_storeCell {cs : List Host.Cell} {i : Nat} {v : Byte} {x : Host.Cell} (h : x ∈ storeCell cs i v) :
    x = (i, v) ∨ x ∈ cs := by
  induction cs with
  | nil => simpa [storeCell] using h
  | cons c rest ih =>
    obtain ⟨a, b⟩ := c
    simp only [storeCell] at h
    split at h
    · simpa using h
    · split at h
      · rcases List.mem_cons.mp h with h | h
        · exact .inl h
        · exact .inr (List.mem_cons_of_mem _ h)
      · rcases List.mem_cons.mp h with h | h
        · exact .inr (by simp [h])
        · exact (ih h).imp_right (List.mem_cons_of_mem _)

theorem Memory.write_wf {m : Memory} (h : m.wf) (i : Nat) (v : Byte) : (m.write i v).wf := by
  obtain ⟨cs⟩ := m
  simp only [Memory.wf, Memory.write] at h ⊢
  induction cs with
  | nil => simp [storeCell]
  | cons c rest ih =>
    obtain ⟨a, b⟩ := c
    obtain ⟨h1, h2⟩ := List.pairwise_cons.mp h
    simp only [storeCell]
    split
    · next hi =>
      refine List.pairwise_cons.mpr ⟨?_, h⟩
      intro x hx
      rcases List.mem_cons.mp hx with rfl | hx
      · exact hi
      · exact Nat.lt_trans hi (h1 x hx)
    · split
      · next he => subst he; exact List.pairwise_cons.mpr ⟨h1, h2⟩
      · refine List.pairwise_cons.mpr ⟨?_, ih h2⟩
        intro x hx
        rcases mem_storeCell hx with rfl | hx
        · show a < i; omega
        · exact h1 x hx

theorem Memory.write_within {m : Memory} {n i : Nat} (h : m.within n) (hi : i < n) (v : Byte) :
    (m.write i v).within n := by
  intro x hx
  rcases mem_storeCell hx with rfl | hx
  · exact hi
  · exact h x hx

theorem Memory.empty_wf : Memory.wf ⟨[]⟩ := List.Pairwise.nil

theorem reset_buf_wf : State.reset.buf.wf := Memory.empty_wf

end Sys2Proof.Machine
end

