-- ==== Sys2Proof/Laws/State.lean ====
section
/-! SUPPORT. One lemma per field per update of the state, true by rfl. -/

namespace Sys2Proof.Machine

section Updates
variable (s : State)

@[simp] theorem State.advance_mode : s.advance.mode = s.mode := rfl
@[simp] theorem State.advance_phase : s.advance.phase = s.phase := rfl
@[simp] theorem State.advance_hpos : s.advance.hpos = s.hpos := rfl
@[simp] theorem State.advance_known : s.advance.known = s.known := rfl
@[simp] theorem State.advance_bitsRem : s.advance.bitsRem = s.bitsRem := rfl
@[simp] theorem State.advance_wp : s.advance.wp = s.wp := rfl
@[simp] theorem State.advance_settleCnt : s.advance.settleCnt = s.settleCnt := rfl
@[simp] theorem State.advance_lineQ : s.advance.lineQ = s.lineQ := rfl
@[simp] theorem State.advance_eidx : s.advance.eidx = s.eidx := rfl
@[simp] theorem State.advance_idleCnt : s.advance.idleCnt = s.idleCnt := rfl
@[simp] theorem State.advance_faultCode : s.advance.faultCode = s.faultCode := rfl
@[simp] theorem State.advance_buf : s.advance.buf = s.buf := rfl
@[simp] theorem State.advance_cfg : s.advance.cfg = s.cfg := rfl
@[simp] theorem State.advance_inputs : s.advance.inputs = s.inputs.tail := rfl
@[simp] theorem State.advance_tick : s.advance.tick = s.tick + 1 := rfl
@[simp] theorem State.advance_sent : s.advance.sent = s.sent := rfl

@[simp] theorem State.tickOver_mode : s.tickOver.mode = s.mode := rfl
@[simp] theorem State.tickOver_phase : s.tickOver.phase = s.phase := rfl
@[simp] theorem State.tickOver_hpos : s.tickOver.hpos = s.hpos := rfl
@[simp] theorem State.tickOver_known : s.tickOver.known = s.known := rfl
@[simp] theorem State.tickOver_bitsRem : s.tickOver.bitsRem = s.bitsRem := rfl
@[simp] theorem State.tickOver_wp : s.tickOver.wp = s.wp := rfl
@[simp] theorem State.tickOver_settleCnt : s.tickOver.settleCnt = s.settleCnt := rfl
@[simp] theorem State.tickOver_lineQ : s.tickOver.lineQ = s.input.line := rfl
@[simp] theorem State.tickOver_eidx : s.tickOver.eidx = s.eidx := rfl
@[simp] theorem State.tickOver_idleCnt : s.tickOver.idleCnt = s.idleCnt := rfl
@[simp] theorem State.tickOver_faultCode : s.tickOver.faultCode = s.faultCode := rfl
@[simp] theorem State.tickOver_buf : s.tickOver.buf = s.buf := rfl
@[simp] theorem State.tickOver_cfg : s.tickOver.cfg = s.cfg := rfl
@[simp] theorem State.tickOver_inputs : s.tickOver.inputs = s.inputs.tail := rfl
@[simp] theorem State.tickOver_tick : s.tickOver.tick = s.tick + 1 := rfl
@[simp] theorem State.tickOver_sent : s.tickOver.sent = s.sent := rfl

@[simp] theorem State.emit_mode (b : Byte) : (s.emit b).mode = s.mode := rfl
@[simp] theorem State.emit_phase (b : Byte) : (s.emit b).phase = s.phase := rfl
@[simp] theorem State.emit_hpos (b : Byte) : (s.emit b).hpos = s.hpos := rfl
@[simp] theorem State.emit_known (b : Byte) : (s.emit b).known = s.known := rfl
@[simp] theorem State.emit_bitsRem (b : Byte) : (s.emit b).bitsRem = s.bitsRem := rfl
@[simp] theorem State.emit_wp (b : Byte) : (s.emit b).wp = s.wp := rfl
@[simp] theorem State.emit_settleCnt (b : Byte) : (s.emit b).settleCnt = s.settleCnt := rfl
@[simp] theorem State.emit_lineQ (b : Byte) : (s.emit b).lineQ = s.lineQ := rfl
@[simp] theorem State.emit_eidx (b : Byte) : (s.emit b).eidx = s.eidx := rfl
@[simp] theorem State.emit_idleCnt (b : Byte) : (s.emit b).idleCnt = s.idleCnt := rfl
@[simp] theorem State.emit_faultCode (b : Byte) : (s.emit b).faultCode = s.faultCode := rfl
@[simp] theorem State.emit_buf (b : Byte) : (s.emit b).buf = s.buf := rfl
@[simp] theorem State.emit_cfg (b : Byte) : (s.emit b).cfg = s.cfg := rfl
@[simp] theorem State.emit_inputs (b : Byte) : (s.emit b).inputs = s.inputs := rfl
@[simp] theorem State.emit_tick (b : Byte) : (s.emit b).tick = s.tick := rfl
@[simp] theorem State.emit_sent (b : Byte) : (s.emit b).sent = s.sent ++ [b] := rfl

@[simp] theorem State.enterSample_mode : s.enterSample.mode = .sample := rfl
@[simp] theorem State.enterSample_phase : s.enterSample.phase = .wait := rfl
@[simp] theorem State.enterSample_hpos : s.enterSample.hpos = 0 := rfl
@[simp] theorem State.enterSample_known : s.enterSample.known = false := rfl
@[simp] theorem State.enterSample_bitsRem : s.enterSample.bitsRem = 0 := rfl
@[simp] theorem State.enterSample_wp : s.enterSample.wp = s.cfg.captureBase := rfl
@[simp] theorem State.enterSample_settleCnt : s.enterSample.settleCnt = 0 := rfl
@[simp] theorem State.enterSample_lineQ : s.enterSample.lineQ = s.lineQ := rfl
@[simp] theorem State.enterSample_eidx : s.enterSample.eidx = 0 := rfl
@[simp] theorem State.enterSample_idleCnt : s.enterSample.idleCnt = 0 := rfl
@[simp] theorem State.enterSample_faultCode : s.enterSample.faultCode = s.faultCode := rfl
@[simp] theorem State.enterSample_buf : s.enterSample.buf = s.buf := rfl
@[simp] theorem State.enterSample_cfg : s.enterSample.cfg = s.cfg := rfl
@[simp] theorem State.enterSample_inputs : s.enterSample.inputs = s.inputs := rfl
@[simp] theorem State.enterSample_tick : s.enterSample.tick = s.tick := rfl
@[simp] theorem State.enterSample_sent : s.enterSample.sent = s.sent := rfl

@[simp] theorem State.raiseOverrun_mode : s.raiseOverrun.mode = .fault := rfl
@[simp] theorem State.raiseOverrun_phase : s.raiseOverrun.phase = s.phase := rfl
@[simp] theorem State.raiseOverrun_hpos : s.raiseOverrun.hpos = s.hpos := rfl
@[simp] theorem State.raiseOverrun_known : s.raiseOverrun.known = s.known := rfl
@[simp] theorem State.raiseOverrun_bitsRem : s.raiseOverrun.bitsRem = s.bitsRem := rfl
@[simp] theorem State.raiseOverrun_wp : s.raiseOverrun.wp = s.wp := rfl
@[simp] theorem State.raiseOverrun_settleCnt : s.raiseOverrun.settleCnt = s.settleCnt := rfl
@[simp] theorem State.raiseOverrun_lineQ : s.raiseOverrun.lineQ = s.lineQ := rfl
@[simp] theorem State.raiseOverrun_eidx : s.raiseOverrun.eidx = s.eidx := rfl
@[simp] theorem State.raiseOverrun_idleCnt : s.raiseOverrun.idleCnt = s.idleCnt := rfl
@[simp] theorem State.raiseOverrun_faultCode : s.raiseOverrun.faultCode = 1 := rfl
@[simp] theorem State.raiseOverrun_buf : s.raiseOverrun.buf = s.buf := rfl
@[simp] theorem State.raiseOverrun_cfg : s.raiseOverrun.cfg = s.cfg := rfl
@[simp] theorem State.raiseOverrun_inputs : s.raiseOverrun.inputs = s.inputs := rfl
@[simp] theorem State.raiseOverrun_tick : s.raiseOverrun.tick = s.tick := rfl
@[simp] theorem State.raiseOverrun_sent : s.raiseOverrun.sent = s.sent := rfl

@[simp] theorem State.resetTick_mode : s.resetTick.mode = .sample := rfl
@[simp] theorem State.resetTick_phase : s.resetTick.phase = .wait := rfl
@[simp] theorem State.resetTick_hpos : s.resetTick.hpos = 0 := rfl
@[simp] theorem State.resetTick_known : s.resetTick.known = false := rfl
@[simp] theorem State.resetTick_bitsRem : s.resetTick.bitsRem = 0 := rfl
@[simp] theorem State.resetTick_wp : s.resetTick.wp = s.cfg.captureBase := rfl
@[simp] theorem State.resetTick_settleCnt : s.resetTick.settleCnt = 0 := rfl
@[simp] theorem State.resetTick_lineQ : s.resetTick.lineQ = false := rfl
@[simp] theorem State.resetTick_eidx : s.resetTick.eidx = 0 := rfl
@[simp] theorem State.resetTick_idleCnt : s.resetTick.idleCnt = 0 := rfl
@[simp] theorem State.resetTick_faultCode : s.resetTick.faultCode = 0 := rfl
@[simp] theorem State.resetTick_buf : s.resetTick.buf = s.buf := rfl
@[simp] theorem State.resetTick_cfg : s.resetTick.cfg = s.cfg := rfl
@[simp] theorem State.resetTick_inputs : s.resetTick.inputs = s.inputs.tail := rfl
@[simp] theorem State.resetTick_tick : s.resetTick.tick = s.tick + 1 := rfl
@[simp] theorem State.resetTick_sent : s.resetTick.sent = s.sent := rfl

@[simp] theorem State.classify_mode (c : Command) : (s.classify c).mode = s.mode := rfl
@[simp] theorem State.classify_phase (c : Command) : (s.classify c).phase = s.phase := rfl
@[simp] theorem State.classify_hpos (c : Command) : (s.classify c).hpos = s.hpos := rfl
@[simp] theorem State.classify_known (c : Command) : (s.classify c).known = true := rfl
@[simp] theorem State.classify_bitsRem (c : Command) : (s.classify c).bitsRem = bits (code c) := rfl
@[simp] theorem State.classify_wp (c : Command) : (s.classify c).wp = s.wp := rfl
@[simp] theorem State.classify_settleCnt (c : Command) : (s.classify c).settleCnt = s.settleCnt := rfl
@[simp] theorem State.classify_lineQ (c : Command) : (s.classify c).lineQ = s.lineQ := rfl
@[simp] theorem State.classify_eidx (c : Command) : (s.classify c).eidx = s.eidx := rfl
@[simp] theorem State.classify_idleCnt (c : Command) : (s.classify c).idleCnt = s.idleCnt := rfl
@[simp] theorem State.classify_faultCode (c : Command) : (s.classify c).faultCode = s.faultCode := rfl
@[simp] theorem State.classify_buf (c : Command) : (s.classify c).buf = s.buf.write 0 (code c) := rfl
@[simp] theorem State.classify_cfg (c : Command) : (s.classify c).cfg = s.cfg := rfl
@[simp] theorem State.classify_inputs (c : Command) : (s.classify c).inputs = s.inputs := rfl
@[simp] theorem State.classify_tick (c : Command) : (s.classify c).tick = s.tick := rfl
@[simp] theorem State.classify_sent (c : Command) : (s.classify c).sent = s.sent := rfl

@[simp] theorem State.countHeaderSample_mode : s.countHeaderSample.mode = s.mode := rfl
@[simp] theorem State.countHeaderSample_phase : s.countHeaderSample.phase = .wait := rfl
@[simp] theorem State.countHeaderSample_hpos : s.countHeaderSample.hpos = s.hpos + 1 := rfl
@[simp] theorem State.countHeaderSample_known : s.countHeaderSample.known = s.known := rfl
@[simp] theorem State.countHeaderSample_bitsRem : s.countHeaderSample.bitsRem = s.bitsRem := rfl
@[simp] theorem State.countHeaderSample_wp : s.countHeaderSample.wp = if s.hpos + 1 = 8 then s.cfg.captureBase else s.wp := rfl
@[simp] theorem State.countHeaderSample_settleCnt : s.countHeaderSample.settleCnt = s.settleCnt := rfl
@[simp] theorem State.countHeaderSample_lineQ : s.countHeaderSample.lineQ = s.lineQ := rfl
@[simp] theorem State.countHeaderSample_eidx : s.countHeaderSample.eidx = s.eidx := rfl
@[simp] theorem State.countHeaderSample_idleCnt : s.countHeaderSample.idleCnt = s.idleCnt := rfl
@[simp] theorem State.countHeaderSample_faultCode : s.countHeaderSample.faultCode = s.faultCode := rfl
@[simp] theorem State.countHeaderSample_buf : s.countHeaderSample.buf = s.buf := rfl
@[simp] theorem State.countHeaderSample_cfg : s.countHeaderSample.cfg = s.cfg := rfl
@[simp] theorem State.countHeaderSample_inputs : s.countHeaderSample.inputs = s.inputs := rfl
@[simp] theorem State.countHeaderSample_tick : s.countHeaderSample.tick = s.tick := rfl
@[simp] theorem State.countHeaderSample_sent : s.countHeaderSample.sent = s.sent := rfl

@[simp] theorem State.storeSample_mode : s.storeSample.mode = s.mode := rfl
@[simp] theorem State.storeSample_phase : s.storeSample.phase = s.phase := rfl
@[simp] theorem State.storeSample_hpos : s.storeSample.hpos = s.hpos := rfl
@[simp] theorem State.storeSample_known : s.storeSample.known = s.known := rfl
@[simp] theorem State.storeSample_bitsRem : s.storeSample.bitsRem = s.countDown := rfl
@[simp] theorem State.storeSample_wp : s.storeSample.wp = s.wp + 1 := rfl
@[simp] theorem State.storeSample_settleCnt : s.storeSample.settleCnt = s.settleCnt := rfl
@[simp] theorem State.storeSample_lineQ : s.storeSample.lineQ = s.input.line := rfl
@[simp] theorem State.storeSample_eidx : s.storeSample.eidx = s.eidx := rfl
@[simp] theorem State.storeSample_idleCnt : s.storeSample.idleCnt = s.idleCnt := rfl
@[simp] theorem State.storeSample_faultCode : s.storeSample.faultCode = s.faultCode := rfl
@[simp] theorem State.storeSample_buf : s.storeSample.buf = s.buf.write s.wp (lvl s.cfg s.input.line) := rfl
@[simp] theorem State.storeSample_cfg : s.storeSample.cfg = s.cfg := rfl
@[simp] theorem State.storeSample_inputs : s.storeSample.inputs = s.inputs.tail := rfl
@[simp] theorem State.storeSample_tick : s.storeSample.tick = s.tick + 1 := rfl
@[simp] theorem State.storeSample_sent : s.storeSample.sent = s.sent := rfl

end Updates

end Sys2Proof.Machine
end

