-- ==== Sys2Proof/Laws/Ops.lean ====
section
/-! SUPPORT. What each shared operation can do, said once: the hand-off, the capture event, the sample events of a command,
the ticks of each mode, and one step. Later proofs cite these instead of unfolding the operations. -/

namespace Sys2Proof.Machine

section Tables

@[simp] theorem bits_code_info : bits (code .info) = 25 := by decide
@[simp] theorem bits_code_poll : bits (code .poll) = 33 := by decide
@[simp] theorem bits_code_rw : bits (code .rw) = 281 := by decide
@[simp] theorem bits_code_reset : bits (code .reset) = 25 := by decide
@[simp] theorem recognized_code (c : Command) : recognized (code c) = true := by cases c <;> decide

/-- RECOGNIZED is membership in the set of the four codes (R47). -/
theorem recognized_iff (b : Byte) : recognized b = true ↔ b = 0x00#8 ∨ b = 0x01#8 ∨ b = 0x02#8 ∨ b = 0xFF#8 := by
  simp only [recognized, bits?]
  split_ifs <;> simp_all

/-- A recognised byte has 25, 33 or 281 bits to capture (R46). -/
theorem bits_of_recognized {b : Byte} (h : recognized b = true) : 25 ≤ bits b ∧ bits b ≤ 281 := by
  rcases (recognized_iff b).mp h with rfl | rfl | rfl | rfl <;> decide

/-- A load from a slot the buffer has (R9). -/
@[simp] theorem load_of_lt {c : Cfg} {i : Nat} (h : i < c.bufSlots) (m : Memory) : load c m i = m.read i := by
  simp [load, h]

/-- The compact encoder of a recognised frame loads only slots the buffer has (R78). -/
theorem load_of_recognized {c : Cfg} {m : Memory} {i : Nat} (hw : c.Wf) (hr : recognized (m.read 0) = true)
    (hi : i < bits (m.read 0)) : load c m (c.encBase + i) = m.read (c.encBase + i) := by
  have hb := (bits_of_recognized hr).2
  exact load_of_lt (by have := hw.2.1; have := hw.2.2.2.2.1; omega) m

end Tables

section Inputs
variable (s : State)

theorem State.input_cons {x : TickIn} {is : List TickIn} (h : s.inputs = x :: is) : s.input = x := by
  simp [State.input, h]

@[simp] theorem State.input_tickOver_of {x y : TickIn} {is : List TickIn} (h : s.inputs = x :: y :: is) :
    s.tickOver.input = y := by
  simp [State.input, h]

end Inputs

section Operations
variable {s t : State}

/-- The hand-off encodes a recognised frame (R88). -/
theorem State.handOff_recognized {b : Byte} (h : recognized b = true) :
    s.handOff b = { s with mode := .encode, eidx := 0 } := by
  simp [State.handOff, h]

/-- What the hand-off can do (R88). -/
theorem State.handOff_cases (s : State) (b : Byte) :
    (recognized b = true ∧ s.handOff b = { s with mode := .encode, eidx := 0 }) ∨
    (recognized b = false ∧ s.cfg.idleDelayTicks = 0 ∧ s.handOff b = s.enterSample) ∨
    (recognized b = false ∧ s.cfg.idleDelayTicks ≠ 0 ∧
      s.handOff b = { s with mode := .idle, idleCnt := s.cfg.idleDelayTicks }) := by
  unfold State.handOff
  split_ifs <;> simp_all

/-- What a capture event can do (R71, R95). -/
theorem State.captureSample_cases (s : State) :
    (s.cfg.bufSlots ≤ s.wp ∧ s.captureSample = s.tickOver.raiseOverrun) ∨
    (s.wp < s.cfg.bufSlots ∧ s.countDown = 0 ∧ s.captureSample = s.storeSample.handOff (s.buf.read 0)) ∨
    (s.wp < s.cfg.bufSlots ∧ s.countDown ≠ 0 ∧ s.captureSample = { s.storeSample with phase := .wait }) := by
  unfold State.captureSample
  split_ifs <;> simp_all

/-- The header events of a command (R62 to R65). -/
theorem commandSample_header {c : Command} {k : Nat} (h : s.hpos < 8) :
    commandSample c k s =
      .next (if s.hpos + 1 = k then s.tickOver.classify c else s.tickOver).countHeaderSample := by
  simp [commandSample, h]

/-- The capture events of a command are the shared loop's (R73). -/
theorem commandSample_capture {c : Command} {k : Nat} (h : s.hpos = 8) :
    commandSample c k s = .next s.captureSample := by
  simp [commandSample, h]

/-- The meaning of a command, for all four at once. -/
theorem exec_eq (i : Instr) (s : State) : exec i s = commandSample i.command i.decidedAt s := by
  cases i <;> rfl

/-- A command's sample event always answers a next state. -/
theorem exec_next (i : Instr) (s : State) : ∃ t, exec i s = .next t := by
  rw [exec_eq]
  unfold commandSample
  split_ifs <;> exact ⟨_, rfl⟩

/-- The encoder tick, where it answers a next state (R90). -/
theorem encoderTick_cases (h : encoderTick s = .next t) :
    (s.eidx + 1 = (outList s.cfg s.buf).length ∧ t = (s.tickOver.emit s.outByte).enterSample) ∨
    (s.eidx + 1 ≠ (outList s.cfg s.buf).length ∧ t = { s.tickOver.emit s.outByte with eidx := s.eidx + 1 }) := by
  unfold encoderTick at h
  split_ifs at h with h1
  · exact .inl ⟨h1, by simpa using h.symm⟩
  · exact .inr ⟨h1, by simpa using h.symm⟩

/-- The sample event of the command in flight is the pseudocode of R62. -/
theorem sampleTick_header (h : s.hpos < 8) : sampleTick s =
    .next (if s.hpos + 1 = 6 ∧ s.input.line = true then s.tickOver.classify .reset
      else if s.hpos + 1 = 7 ∧ s.known = false ∧ s.input.line = true then s.tickOver.classify .rw
      else if s.hpos + 1 = 8 ∧ s.known = false ∧ s.input.line = true then s.tickOver.classify .poll
      else if s.hpos + 1 = 8 ∧ s.known = false ∧ s.input.line = false then s.tickOver.classify .info
      else s.tickOver).countHeaderSample := by
  simp only [sampleTick, h, if_true, exec_eq, commandSample, State.inFlight, State.headerInFlight]
  generalize s.input.line = v
  generalize s.known = kn
  obtain hp | hp | hp | hp | hp | hp | hp | hp : s.hpos = 0 ∨ s.hpos = 1 ∨ s.hpos = 2 ∨ s.hpos = 3 ∨ s.hpos = 4 ∨
    s.hpos = 5 ∨ s.hpos = 6 ∨ s.hpos = 7 := by omega
  all_goals
    simp only [hp]
    cases v <;> cases kn <;> rfl

/-- What a step without reset is (R86). -/
theorem step_noReset (hw : s.cfg.Wf) (hr : s.input.rst = false) : step s = modeTick s := by
  rw [step, if_pos hw, if_neg (by simp [hr])]

/-- What a reset tick is (R105). -/
theorem step_reset (hw : s.cfg.Wf) (hr : s.input.rst = true) : step s = .next s.resetTick := by
  rw [step, if_pos hw, if_pos hr]

/-- A tick that waits for an edge (R58). -/
theorem step_wait (hw : s.cfg.Wf) (hr : s.input.rst = false) (hm : s.mode = .sample) (hp : s.phase = .wait) :
    step s = waitTick s := by
  rw [step_noReset hw hr]; simp [modeTick, hm, samplerTick, hp]

/-- A tick of the settle interval (R59). -/
theorem step_settle (hw : s.cfg.Wf) (hr : s.input.rst = false) (hm : s.mode = .sample) (hp : s.phase = .settle) :
    step s = settleTick s := by
  rw [step_noReset hw hr]; simp [modeTick, hm, samplerTick, hp]

/-- The tick of a sample event (R59, R61). -/
theorem step_sample (hw : s.cfg.Wf) (hr : s.input.rst = false) (hm : s.mode = .sample) (hp : s.phase = .settle)
    (hc : s.settleCnt = 1) : step s = sampleTick s := by
  rw [step_settle hw hr hm hp]; simp [settleTick, hc]

/-- A tick of ENCODE (R90). -/
theorem step_encode (hw : s.cfg.Wf) (hr : s.input.rst = false) (hm : s.mode = .encode) : step s = encoderTick s := by
  rw [step_noReset hw hr]; simp [modeTick, hm]

/-- A tick of IDLE (R91). -/
theorem step_idle (hw : s.cfg.Wf) (hr : s.input.rst = false) (hm : s.mode = .idle) : step s = idleTick s := by
  rw [step_noReset hw hr]; simp [modeTick, hm]

/-- A tick of FAULT (R97). -/
theorem step_fault (hw : s.cfg.Wf) (hr : s.input.rst = false) (hm : s.mode = .fault) : step s = .next s.tickOver := by
  rw [step_noReset hw hr]; simp [modeTick, hm, faultTick]

/-- A header sample event counts the sample and classifies at most one command, leaving everything else (R62, R63). -/
theorem sampleTick_header_cases (h8 : s.hpos < 8) (h : sampleTick s = .next t) :
    t = s.tickOver.countHeaderSample ∨
    ∃ c, 6 ≤ s.hpos + 1 ∧ (s.known = false ∨ s.hpos = 5) ∧ t = (s.tickOver.classify c).countHeaderSample := by
  rw [sampleTick_header h8] at h
  split_ifs at h with h1 h2 h3 h4
  · exact .inr ⟨.reset, by omega, .inr (by omega), by simpa using h.symm⟩
  · exact .inr ⟨.rw, by omega, .inl h2.2.1, by simpa using h.symm⟩
  · exact .inr ⟨.poll, by omega, .inl h3.2.1, by simpa using h.symm⟩
  · exact .inr ⟨.info, by omega, .inl h4.2.1, by simpa using h.symm⟩
  · exact .inl (by simpa using h.symm)

/-- What a sampler tick without reset can do (R58, R59, R61): wait, accept an edge, count down, take a header sample, or take
a capture sample. With the settle counter at 0, or hpos above 8, only line_q changes (log entry 7). -/
theorem samplerTick_cases (h : samplerTick s = .next t) :
    (s.phase = .wait ∧ s.fall = false ∧ t = s.tickOver) ∨
    (s.phase = .wait ∧ s.fall = true ∧ t = { s.tickOver with settleCnt := s.cfg.settleTicks, phase := .settle }) ∨
    (s.phase = .settle ∧ 1 < s.settleCnt ∧ t = { s.tickOver with settleCnt := s.settleCnt - 1 }) ∨
    (s.phase = .settle ∧ (s.settleCnt = 0 ∨ 8 < s.hpos) ∧ t = s.tickOver) ∨
    (s.phase = .settle ∧ s.settleCnt = 1 ∧ s.hpos < 8 ∧ sampleTick s = .next t) ∨
    (s.phase = .settle ∧ s.settleCnt = 1 ∧ s.hpos = 8 ∧ t = s.captureSample) := by
  unfold samplerTick at h
  split at h
  · next hp =>
    unfold waitTick at h
    split_ifs at h with hf
    · exact .inr (.inl ⟨hp, hf, by simpa using h.symm⟩)
    · exact .inl ⟨hp, by simpa using hf, by simpa using h.symm⟩
  · next hp =>
    unfold settleTick at h
    split_ifs at h with h1 h2
    · exact .inr (.inr (.inl ⟨hp, h1, by simpa using h.symm⟩))
    · by_cases h3 : s.hpos < 8
      · exact .inr (.inr (.inr (.inr (.inl ⟨hp, h2, h3, h⟩))))
      · unfold sampleTick at h
        rw [if_neg h3] at h
        split_ifs at h with h4
        · exact .inr (.inr (.inr (.inr (.inr ⟨hp, h2, h4, by simpa using h.symm⟩))))
        · exact .inr (.inr (.inr (.inl ⟨hp, .inr (by omega), by simpa using h.symm⟩)))
    · exact .inr (.inr (.inr (.inl ⟨hp, .inl (by omega), by simpa using h.symm⟩)))

/-- What an idle tick can do (R91). -/
theorem idleTick_cases (h : idleTick s = .next t) :
    (s.idleCnt ≤ 1 ∧ t = s.tickOver.enterSample) ∨
    (1 < s.idleCnt ∧ t = { s.tickOver with idleCnt := s.idleCnt - 1 }) := by
  unfold idleTick at h
  split_ifs at h with h1
  · exact .inl ⟨h1, by simpa using h.symm⟩
  · exact .inr ⟨by omega, by simpa using h.symm⟩

/-- What a tick without reset can be, by the mode (R86). -/
theorem modeTick_cases (h : modeTick s = .next t) :
    (s.mode = .sample ∧ samplerTick s = .next t) ∨ (s.mode = .encode ∧ encoderTick s = .next t) ∨
    (s.mode = .idle ∧ idleTick s = .next t) ∨ (s.mode = .fault ∧ t = s.tickOver) := by
  unfold modeTick at h
  split at h
  · next hm => exact .inl ⟨hm, h⟩
  · next hm => exact .inr (.inl ⟨hm, h⟩)
  · next hm => exact .inr (.inr (.inl ⟨hm, h⟩))
  · next hm => exact .inr (.inr (.inr ⟨hm, by simpa [faultTick] using h.symm⟩))

/-- Everything a step that answers a next state can be. -/
theorem step_cases (h : step s = .next t) : s.cfg.Wf ∧
    ((s.input.rst = true ∧ t = s.resetTick) ∨ (s.input.rst = false ∧ modeTick s = .next t)) := by
  unfold step at h
  split_ifs at h with hw hr
  · exact ⟨hw, .inl ⟨hr, by simpa using h.symm⟩⟩
  · exact ⟨hw, .inr ⟨by simpa using hr, h⟩⟩

/-- What the hand-off never touches (R88). -/
theorem State.handOff_frame (s : State) (b : Byte) :
    (s.handOff b).lineQ = s.lineQ ∧ (s.handOff b).inputs = s.inputs ∧ (s.handOff b).tick = s.tick ∧
    (s.handOff b).cfg = s.cfg ∧ (s.handOff b).buf = s.buf ∧ (s.handOff b).sent = s.sent ∧
    (s.handOff b).faultCode = s.faultCode := by
  rcases State.handOff_cases s b with ⟨_, e⟩ | ⟨_, _, e⟩ | ⟨_, _, e⟩ <;> rw [e] <;> exact ⟨rfl, rfl, rfl, rfl, rfl, rfl, rfl⟩

/-- Every next state of every step, as one list (R86). -/
theorem step_outcomes (h : step s = .next t) : s.cfg.Wf ∧
  ((s.input.rst = true ∧ t = s.resetTick) ∨ (s.input.rst = false ∧ (
   (s.mode = .sample ∧ (
      (s.phase = .wait ∧ s.fall = false ∧ t = s.tickOver) ∨
      (s.phase = .wait ∧ s.fall = true ∧ t = { s.tickOver with settleCnt := s.cfg.settleTicks, phase := .settle }) ∨
      (s.phase = .settle ∧ 1 < s.settleCnt ∧ t = { s.tickOver with settleCnt := s.settleCnt - 1 }) ∨
      (s.phase = .settle ∧ (s.settleCnt = 0 ∨ 8 < s.hpos) ∧ t = s.tickOver) ∨
      (s.phase = .settle ∧ s.settleCnt = 1 ∧ s.hpos < 8 ∧ t = s.tickOver.countHeaderSample) ∨
      (s.phase = .settle ∧ s.settleCnt = 1 ∧ s.hpos < 8 ∧ ∃ c, 6 ≤ s.hpos + 1 ∧ (s.known = false ∨ s.hpos = 5) ∧
        t = (s.tickOver.classify c).countHeaderSample) ∨
      (s.phase = .settle ∧ s.settleCnt = 1 ∧ s.hpos = 8 ∧ s.cfg.bufSlots ≤ s.wp ∧ t = s.tickOver.raiseOverrun) ∨
      (s.phase = .settle ∧ s.settleCnt = 1 ∧ s.hpos = 8 ∧ s.wp < s.cfg.bufSlots ∧ s.countDown = 0 ∧
        t = s.storeSample.handOff (s.buf.read 0)) ∨
      (s.phase = .settle ∧ s.settleCnt = 1 ∧ s.hpos = 8 ∧ s.wp < s.cfg.bufSlots ∧ s.countDown ≠ 0 ∧
        t = { s.storeSample with phase := .wait }))) ∨
   (s.mode = .encode ∧ s.eidx + 1 = (outList s.cfg s.buf).length ∧ t = (s.tickOver.emit s.outByte).enterSample) ∨
   (s.mode = .encode ∧ s.eidx + 1 ≠ (outList s.cfg s.buf).length ∧ t = { s.tickOver.emit s.outByte with eidx := s.eidx + 1 }) ∨
   (s.mode = .idle ∧ s.idleCnt ≤ 1 ∧ t = s.tickOver.enterSample) ∨
   (s.mode = .idle ∧ 1 < s.idleCnt ∧ t = { s.tickOver with idleCnt := s.idleCnt - 1 }) ∨
   (s.mode = .fault ∧ t = s.tickOver)))) := by
  obtain ⟨hw, h | ⟨hr, h⟩⟩ := step_cases h
  · exact ⟨hw, .inl h⟩
  refine ⟨hw, .inr ⟨hr, ?_⟩⟩
  rcases modeTick_cases h with ⟨hm, h⟩ | ⟨hm, h⟩ | ⟨hm, h⟩ | ⟨hm, h⟩
  · refine .inl ⟨hm, ?_⟩
    rcases samplerTick_cases h with h | h | h | h | ⟨a, b, c, h⟩ | ⟨a, b, c, h⟩
    · exact .inl h
    · exact .inr (.inl h)
    · exact .inr (.inr (.inl h))
    · exact .inr (.inr (.inr (.inl h)))
    · rcases sampleTick_header_cases c h with h | h
      · exact .inr (.inr (.inr (.inr (.inl ⟨a, b, c, h⟩))))
      · exact .inr (.inr (.inr (.inr (.inr (.inl ⟨a, b, c, h⟩)))))
    · rcases State.captureSample_cases s with ⟨d, e⟩ | ⟨d, e, f⟩ | ⟨d, e, f⟩
      · exact .inr (.inr (.inr (.inr (.inr (.inr (.inl ⟨a, b, c, d, h.trans e⟩))))))
      · exact .inr (.inr (.inr (.inr (.inr (.inr (.inr (.inl ⟨a, b, c, d, e, h.trans f⟩)))))))
      · exact .inr (.inr (.inr (.inr (.inr (.inr (.inr (.inr ⟨a, b, c, d, e, h.trans f⟩)))))))
  · rcases encoderTick_cases h with h | h
    · exact .inr (.inl ⟨hm, h⟩)
    · exact .inr (.inr (.inl ⟨hm, h⟩))
  · rcases idleTick_cases h with h | h
    · exact .inr (.inr (.inr (.inl ⟨hm, h⟩)))
    · exact .inr (.inr (.inr (.inr (.inl ⟨hm, h⟩))))
  · exact .inr (.inr (.inr (.inr (.inr ⟨hm, h⟩))))

/-- An encoder tick always answers a next state (R86). -/
theorem encoderTick_next (s : State) : ∃ t, encoderTick s = .next t := by
  unfold encoderTick
  split_ifs <;> exact ⟨_, rfl⟩

/-- A sampler tick always answers a next state (R86). -/
theorem samplerTick_next (s : State) : ∃ t, samplerTick s = .next t := by
  unfold samplerTick
  split
  · unfold waitTick
    split_ifs <;> exact ⟨_, rfl⟩
  · unfold settleTick sampleTick
    split_ifs <;> first | exact ⟨_, rfl⟩ | exact exec_next _ _

end Operations

end Sys2Proof.Machine
end

