-- ==== Sys2Proof/Laws/PerInstr.lean ====
section
/-! SUPPORT. Facts about every instruction as syntax, one lemma per constructor. -/

namespace Sys2Proof.Laws.HeaderPattern

/-- The header of an instruction matches the mask and match of its own row of R49 and of no other row. -/
def Statement (i : Instr) : Prop :=
  ∀ c : Command, encodeHeader i &&& c.maskMatch.1 = c.maskMatch.2 ↔ c = i.command

theorem info (p : BitVec 5) : Statement (.info p) := by
  intro c; cases c <;> simp only [encodeHeader, Command.maskMatch, Instr.command] <;> revert p <;> decide

theorem poll (p : BitVec 5) : Statement (.poll p) := by
  intro c; cases c <;> simp only [encodeHeader, Command.maskMatch, Instr.command] <;> revert p <;> decide

theorem rw (p : BitVec 5) (d : BitVec 1) : Statement (.rw p d) := by
  intro c; cases c <;> simp only [encodeHeader, Command.maskMatch, Instr.command] <;> revert p d <;> decide

theorem reset (p : BitVec 5) (d : BitVec 2) : Statement (.reset p d) := by
  intro c; cases c <;> simp only [encodeHeader, Command.maskMatch, Instr.command] <;> revert p d <;> decide

end Sys2Proof.Laws.HeaderPattern
end

