-- ==== Sys2Proof/Laws/Run.lean ====
section
/-! SUPPORT. Runs of ticks: one tick at a time, and one run after another. -/

namespace Sys2Proof.Machine

@[simp] theorem run_zero (s : State) : run 0 s = .next s := rfl

/-- A run begins with its first tick. -/
theorem run_succ {s t : State} (h : step s = .next t) (n : Nat) : run (n + 1) s = run n t := by
  simp [run, h]

/-- A run of at least one tick that answers a next state has a first tick that does. -/
theorem run_succ_next {s t : State} {n : Nat} (h : run (n + 1) s = .next t) :
    ∃ u, step s = .next u ∧ run n u = .next t := by
  simp only [run] at h
  split at h
  · exact ⟨_, by assumption, h⟩
  · cases h
  · cases h

/-- The first step of the host's run of any machine, by its outcome. -/
theorem coreRun_succ (M : Host.Core) (n : Nat) (s : M.State) :
    (∀ t, M.step s = .next t → M.run (n + 1) s = M.run n t) ∧
    (∀ f, M.step s = .fault f → M.run (n + 1) s = .fault f) ∧
    (∀ r, M.step s = .refused r → M.run (n + 1) s = .refused r) := by
  refine ⟨?_, ?_, ?_⟩ <;> (intro x h; simp [Host.Core.run, h])

/-- The runs of the claims are the host's runs of the machine. -/
theorem run_eq_core_run (n : Nat) (s : State) : run n s = Sys2Proof.core.run n s := by
  induction n generalizing s with
  | zero => rfl
  | succ n ih =>
    obtain ⟨h1, h2, h3⟩ := coreRun_succ Sys2Proof.core n s
    cases hs : step s with
    | next t => exact ((run_succ hs n).trans (ih t)).trans (h1 t hs).symm
    | fault f => exact (show run (n + 1) s = .fault f by simp [run, hs]).trans (h2 f hs).symm
    | refused r => exact (show run (n + 1) s = .refused r by simp [run, hs]).trans (h3 r hs).symm

/-- One run after another. -/
theorem run_add {s t : State} {n : Nat} (h : run n s = .next t) (m : Nat) : run (n + m) s = run m t := by
  induction n generalizing s with
  | zero =>
    have : s = t := by simpa using h
    rw [this, Nat.zero_add]
  | succ n ih =>
    obtain ⟨u, hu, hr⟩ := run_succ_next h
    rw [show n + 1 + m = n + m + 1 by omega, run_succ hu]
    exact ih hr

theorem lastLine_nil (q : Level) : lastLine q [] = q := rfl

theorem lastLine_cons (q : Level) (x : TickIn) (is : List TickIn) : lastLine q (x :: is) = lastLine x.line is := by
  cases is with
  | nil => rfl
  | cons y ys => simp [lastLine, List.getLast?_cons]

end Sys2Proof.Machine
end

