-- ==== Sys2Proof/Tests/Slice0.lean ====
section
/-! SUPPORT. The model's own tests: the well-formedness smoke test, header words written out from spec/30_encoding.md R46,
single ticks from spec/95_test_vectors.md, and for every statement with hypotheses a state that meets them. -/

namespace Sys2Proof.Tests.Slice0
open Sys2Proof Sys2Proof.Machine

/-! ### Well-formedness: every constraint of R7 refuses a configuration that breaks it -/

theorem test_default_is_wellFormed : defaultCfg.Wf := by decide
theorem test_refuses_settleTicks : ¬ ({ defaultCfg with settleTicks := 0 } : Cfg).Wf := by decide
theorem test_refuses_bufSlots : ¬ ({ defaultCfg with bufSlots := 282 } : Cfg).Wf := by decide
theorem test_refuses_slotBits : ¬ ({ defaultCfg with slotBits := 7 } : Cfg).Wf := by decide
theorem test_refuses_captureBase : ¬ ({ defaultCfg with captureBase := 1 } : Cfg).Wf := by decide
theorem test_refuses_encBase : ¬ ({ defaultCfg with encBase := 1 } : Cfg).Wf := by decide
theorem test_refuses_dbgBase : ¬ ({ defaultCfg with dbgBase := 0 } : Cfg).Wf := by decide
theorem test_refuses_dbgBits : ¬ ({ defaultCfg with dbgBits := 25 } : Cfg).Wf := by decide
theorem test_refuses_dbgGroup : ¬ ({ defaultCfg with dbgGroup := 4 } : Cfg).Wf := by decide
theorem test_refuses_levelHighCode : ¬ ({ defaultCfg with levelHighCode := 0x00#8 } : Cfg).Wf := by decide
theorem test_refuses_tokens : ¬ ({ defaultCfg with tokenOne := 0x00#8 } : Cfg).Wf := by decide
theorem test_refuses_splitOne : ¬ ({ defaultCfg with tokenSplit := 0x31#8 } : Cfg).Wf := by decide
theorem test_refuses_splitZero : ¬ ({ defaultCfg with tokenSplit := 0x00#8 } : Cfg).Wf := by decide
theorem test_refuses_dbgCharOne : ¬ ({ defaultCfg with dbgCharOne := 0x30#8 } : Cfg).Wf := by decide
theorem test_refuses_dbgCharZero : ¬ ({ defaultCfg with dbgCharZero := 0x31#8 } : Cfg).Wf := by decide
theorem test_step_refuses_ill_formed : step { State.reset with cfg := { defaultCfg with settleTicks := 0 } } =
    .refused .illFormedConfiguration := rfl

/-! ### Decoding: words written out bit by bit from the patterns of R46 and from vector groups V-B1 and V-B2 -/

theorem test_decode_info : decodeTableWord 8 0b00000000 = some (.info 0b00000#5) := by decide
theorem test_decode_info_free_samples : decodeTableWord 8 0b11111000 = some (.info 0b11111#5) := by decide
theorem test_decode_poll : decodeTableWord 8 0b00000001 = some (.poll 0b00000#5) := by decide
theorem test_decode_poll_free_samples : decodeTableWord 8 0b10101001 = some (.poll 0b10101#5) := by decide
theorem test_decode_rw : decodeTableWord 8 0b00000010 = some (.rw 0b00000#5 0b0#1) := by decide
theorem test_decode_rw_free_samples : decodeTableWord 8 0b10110011 = some (.rw 0b10110#5 0b1#1) := by decide
theorem test_decode_reset : decodeTableWord 8 0b00000100 = some (.reset 0b00000#5 0b00#2) := by decide
theorem test_decode_reset_free_samples : decodeTableWord 8 0b01101110 = some (.reset 0b01101#5 0b10#2) := by decide
theorem test_decode_first_sample_is_bit_7 :
    decode [true, false, false, false, false, false, false, true] = .ok (.poll 0b10000#5, []) := by decide
theorem test_decode_short : decode [true, true, true, true, true, true, true] = .error (.shortHeader 7) := by decide
theorem test_encode_rw : encode (.rw 0b10110#5 0b1#1) = [true, false, true, true, false, false, true, true] := by decide
theorem test_no_other_word_size : decodeTableWord 16 0 = none ∧ decodeTableWord 8 256 = none := by decide

/-! ### Single ticks -/

/-- A tick without reset and with the given level. -/
def lvlIn (v : Level) : TickIn := ⟨false, v⟩

/-- The reset state with one input record listed. -/
def idle (v : Level) : State := { State.reset with inputs := [lvlIn v] }

/-- A waiting sampler that saw a high line. -/
def waiting (is : List TickIn) : State := { State.reset with lineQ := true, inputs := is }

/-- A sampler at sample number k of a header, before classification. -/
def header (k : Nat) (known : Bool) (v : Level) : State :=
  { State.reset with phase := .settle, settleCnt := 1, hpos := k - 1, known := known, inputs := [lvlIn v] }

/-- A capture sample event, as in vector group V-C1. -/
def capture (type : Byte) (bitsRem wp : Nat) (v : Level) : State :=
  { State.reset with
      phase := .settle, settleCnt := 1, hpos := 8, known := true, bitsRem := bitsRem, wp := wp,
      buf := ⟨[(0, type)]⟩, inputs := [lvlIn v] }

/-- An encoder at byte e of a frame with 25 samples, of which the first is 1 (V-D5). -/
def encoding (e : Nat) : State :=
  { State.reset with
      mode := .encode, hpos := 8, known := true, wp := 27, eidx := e,
      buf := ⟨(0, 0x00#8) :: (2, 0xFF#8) :: (List.range 24).map (fun i => (3 + i, 0x00#8)) ++ [(27, 0x01#8)]⟩,
      inputs := [lvlIn true] }

/-- A machine in the fault state (V-G1). -/
def faulted (is : List TickIn) : State :=
  { State.reset with mode := .fault, faultCode := 1, hpos := 8, known := true, wp := 283, bitsRem := 5, inputs := is }

/-- V-A1: tick 0 only registers the level. -/
theorem test_tick0_is_no_edge : step (idle true) = .next { State.reset with lineQ := true, tick := 1 } := rfl
/-- V-A1: tick 1 accepts the edge. -/
theorem test_edge_accepted : step (waiting [lvlIn false]) =
    .next { State.reset with lineQ := false, tick := 1, phase := .settle, settleCnt := 2 } := rfl
/-- V-A1: tick 3 takes the first sample, and settle_cnt is not rewritten. -/
theorem test_first_sample : step (header 1 false false) =
    .next { State.reset with hpos := 1, settleCnt := 1, tick := 1 } := rfl
/-- V-A3: a line low after reset is no edge. -/
theorem test_low_after_reset : step (idle false) = .next { State.reset with tick := 1 } := rfl

/-- V-B3: sample 6 classifies RESET. -/
theorem test_reset_at_sample_6 : exec (.reset 0#5 0b10#2) (header 6 false true) = .next { State.reset with
    hpos := 6, known := true, bitsRem := 25, settleCnt := 1, lineQ := true, tick := 1, buf := ⟨[(0, 0xFF#8)]⟩ } := rfl
/-- V-B3: sample 7 of a RESET header is discarded although it is 1. -/
theorem test_reset_discards_sample_7 : step (header 7 true true) =
    .next { State.reset with hpos := 7, known := true, settleCnt := 1, lineQ := true, tick := 1 } := rfl
/-- V-B4: sample 7 classifies RW. -/
theorem test_rw_at_sample_7 : exec (.rw 0#5 0b0#1) (header 7 false true) = .next { State.reset with
    hpos := 7, known := true, bitsRem := 281, settleCnt := 1, lineQ := true, tick := 1, buf := ⟨[(0, 0x02#8)]⟩ } := rfl
/-- V-B4: sample 8 of an RW header changes only hpos and wp. -/
theorem test_rw_discards_sample_8 : exec (.rw 0#5 0b0#1) (header 8 true false) =
    .next { State.reset with hpos := 8, known := true, settleCnt := 1, tick := 1 } := rfl
/-- V-B1: sample 8 classifies POLL. -/
theorem test_poll_at_sample_8 : exec (.poll 0#5) (header 8 false true) = .next { State.reset with
    hpos := 8, known := true, bitsRem := 33, settleCnt := 1, lineQ := true, tick := 1, buf := ⟨[(0, 0x01#8)]⟩ } := rfl
/-- V-B1: sample 8 classifies INFO. -/
theorem test_info_at_sample_8 : exec (.info 0#5) (header 8 false false) = .next { State.reset with
    hpos := 8, known := true, bitsRem := 25, settleCnt := 1, tick := 1, buf := ⟨[(0, 0x00#8)]⟩ } := rfl
/-- The step fetches the classifying sample event of a placed RW header. -/
theorem test_step_runs_placed_rw : step (State.reset.withFetchWord 8 0b00000011) =
    exec (.rw 0#5 1#1) (State.reset.withFetchWord 8 0b00000011) := rfl

/-- V-C1, row 1, under another LEVEL_HIGH_CODE. -/
theorem test_store_high : step { capture 0x01#8 33 2 true with cfg := { defaultCfg with levelHighCode := 0x80#8 } } =
    .next { capture 0x01#8 33 2 true with
      cfg := { defaultCfg with levelHighCode := 0x80#8 }, buf := ⟨[(0, 0x01#8), (2, 0x80#8)]⟩, wp := 3, bitsRem := 32,
      phase := .wait, lineQ := true, inputs := [], tick := 1 } := rfl
/-- V-C1, row 4: the last store of an RW frame hands off in the same tick. -/
theorem test_last_store_hands_off : step (capture 0x02#8 1 282 false) = .next { capture 0x02#8 1 282 false with
    buf := ⟨[(0, 0x02#8), (282, 0x00#8)]⟩, wp := 283, bitsRem := 0, mode := .encode, inputs := [], tick := 1 } := rfl
/-- V-C1, row 5: the last store but one does not. -/
theorem test_last_but_one_store : step (capture 0x02#8 2 281 true) = .next { capture 0x02#8 2 281 true with
    buf := ⟨[(0, 0x02#8), (281, 0x01#8)]⟩, wp := 282, bitsRem := 1, phase := .wait, lineQ := true, inputs := [],
    tick := 1 } := rfl
/-- V-F2: with IDLE_DELAY_TICKS = 3 an unrecognised code takes the idle path. -/
theorem test_idle_path : step { capture 0x07#8 1 26 true with cfg := { defaultCfg with idleDelayTicks := 3 } } =
    .next { capture 0x07#8 1 26 true with
      cfg := { defaultCfg with idleDelayTicks := 3 }, buf := ⟨[(0, 0x07#8), (26, 0x01#8)]⟩, wp := 27, bitsRem := 0,
      mode := .idle, idleCnt := 3, lineQ := true, inputs := [], tick := 1 } := rfl
/-- V-F2: with IDLE_DELAY_TICKS = 0 the next frame starts at once. -/
theorem test_no_idle_delay : step (capture 0x07#8 1 26 true) =
    .next { State.reset with buf := ⟨[(0, 0x07#8), (26, 0x01#8)]⟩, lineQ := true, tick := 1 } := rfl
/-- V-G1: the overrun stores nothing. -/
theorem test_overrun : step (capture 0x02#8 5 283 true) = .next { capture 0x02#8 5 283 true with
    mode := .fault, faultCode := 1, lineQ := true, inputs := [], tick := 1 } := rfl
/-- V-G1: a reset tick leaves the fault state. -/
theorem test_reset_leaves_fault : step (faulted [⟨true, true⟩]) = .next { State.reset with tick := 1 } := rfl

/-- V-D5: slot 27 is outside the range of a 25-sample frame. -/
theorem test_compact_list : cmpSeq defaultCfg (encoding 0).buf =
    0x31#8 :: List.replicate 24 0x00#8 ++ [0x0A#8] := by decide
/-- V-D5: the first byte of the list is at the port. -/
theorem test_encoder_first_byte : (encoding 0).txValid = true ∧ (encoding 0).txData = 0x31#8 := by decide
/-- V-F1: the last byte starts the next frame. -/
theorem test_encoder_last_byte : step (encoding 25) = .next { State.reset with
    buf := (encoding 25).buf, lineQ := true, tick := 1, sent := [0x0A#8] } := rfl
/-- V-E5. -/
theorem test_dec : dec 9#8 = [0x39#8] ∧ dec 10#8 = [0x31#8, 0x30#8] ∧ dec 99#8 = [0x39#8, 0x39#8] ∧
    dec 100#8 = [0x31#8, 0x30#8, 0x30#8] := by decide
/-- V-E3. -/
theorem test_debug_list : dbgSeq defaultCfg
    ⟨(0, 0xFF#8) :: (2, 0x01#8) :: (List.range 23).map (fun i => (3 + i, 0x00#8)) ++ (26, 0x01#8) ::
      (List.range 7).map (fun i => (27 + i, 0x00#8))⟩ =
    [0x32#8, 0x35#8, 0x35#8, 0x7C#8, 0x31#8, 0x30#8, 0x30#8, 0x30#8, 0x30#8, 0x30#8, 0x30#8, 0x30#8, 0x7C#8] ++
      List.replicate 8 0x30#8 ++ [0x7C#8] ++ List.replicate 8 0x30#8 ++
      [0x7C#8, 0x31#8, 0x30#8, 0x30#8, 0x30#8, 0x30#8, 0x30#8, 0x30#8, 0x30#8, 0x0A#8] := by decide

/-! ### Witnesses: for each statement with hypotheses, concrete states and operands that meet them, at the boundary values
of its clauses -/

theorem test_witness_DecodeGivesBackEncoded : (Instr.rw 0b10101#5 0b1#1).wellFormed = true := rfl

theorem test_witness_EveryEightSamplesAreAHeader :
    8 ≤ (List.replicate 8 true : List Level).length ∧ (List.replicate 7 true : List Level).length < 8 := by decide

/-- At the first and at the last header position, before and after classification. -/
theorem test_witness_StepRunsCommandInFlight :
    defaultCfg.Wf ∧ (header 1 false true).AtSample ∧ (header 1 false true).Carries (.info 0b10000#5) ∧
    (header 8 true true).AtSample ∧ (header 8 true true).Carries (.rw 0b00000#5 0b1#1) := by decide

/-- The smallest and the largest header word. -/
theorem test_witness_StepRunsPlacedHeader : State.reset.cfg.Wf ∧ decodeTableWord 8 0 = some (.info 0#5) ∧
    decodeTableWord 8 255 = some (.reset 0b11111#5 0b11#2) := by decide

/-- The samples at which commands are classified, and one at which none is. -/
theorem test_witness_HeaderSampleOfEachCommand : (header 8 false true).hpos < 8 ∧ (header 8 false true).hpos + 1 = 8 ∧
    (header 7 false true).hpos + 1 = 7 ∧ (header 6 false true).hpos + 1 = 6 ∧ (header 1 false true).hpos + 1 ≠ 6 := by decide

theorem test_witness_WholeHeaderOfEachCommand : State.reset.hpos = 0 := rfl

/-- Each branch of R62. -/
theorem test_witness_HeaderSampleIsR62 : defaultCfg.Wf ∧
    (header 6 false true).AtSample ∧ (header 6 false true).hpos < 8 ∧
    (header 7 false true).AtSample ∧ (header 7 false true).hpos < 8 ∧
    (header 8 false true).AtSample ∧ (header 8 false true).hpos < 8 ∧
    (header 8 false false).AtSample ∧ (header 8 false false).hpos < 8 ∧
    (header 8 true true).AtSample ∧ (header 8 true true).hpos < 8 := by decide

/-- The last slot of the buffer, for each clause: two samples left, and one left with each outcome of the hand-off. -/
theorem test_witness_CaptureSampleStores :
    (∀ s ∈ [capture 0x02#8 2 282 true, capture 0x02#8 1 282 true, capture 0x07#8 1 282 true,
        { capture 0x07#8 1 282 true with cfg := { defaultCfg with idleDelayTicks := 1 } }],
      s.cfg.Wf ∧ s.AtSample ∧ s.hpos = 8 ∧ s.wp < s.cfg.bufSlots ∧ 1 ≤ s.bitsRem) ∧
    2 ≤ (capture 0x02#8 2 282 true).bitsRem ∧ recognized ((capture 0x02#8 1 282 true).buf.read 0) = true ∧
    recognized ((capture 0x07#8 1 282 true).buf.read 0) = false ∧ defaultCfg.idleDelayTicks = 0 := by decide

theorem test_witness_OverrunEntersFaultState : (capture 0x02#8 5 283 true).cfg.Wf ∧ (capture 0x02#8 5 283 true).AtSample ∧
    (capture 0x02#8 5 283 true).hpos = 8 ∧ (capture 0x02#8 5 283 true).cfg.bufSlots ≤ (capture 0x02#8 5 283 true).wp := by decide

/-- Both clauses. Which way the free predecessor of zero goes cannot be shown; both ways have a clause. -/
theorem test_witness_SampleEventsOutsideTheRanges : 8 < (header 10 false true).hpos ∧
    (capture 0x02#8 0 282 true).hpos = 8 ∧ (capture 0x02#8 0 282 true).wp < (capture 0x02#8 0 282 true).cfg.bufSlots ∧
    (capture 0x02#8 0 282 true).bitsRem = 0 := by decide

theorem test_witness_ResetTickForcesResetState :
    (faulted [⟨true, true⟩]).cfg.Wf ∧ (faulted [⟨true, true⟩]).input.rst = true := by decide

theorem test_witness_IllFormedConfigurationIsRefused :
    ¬ ({ State.reset with cfg := { defaultCfg with settleTicks := 0 } } : State).cfg.Wf ∧ State.reset.cfg.Wf := by decide

/-- A falling edge, and none. -/
theorem test_witness_WaitTickAcceptsFallingEdge :
    (∀ s ∈ [waiting [lvlIn false], waiting [lvlIn true]],
      s.cfg.Wf ∧ s.input.rst = false ∧ s.mode = .sample ∧ s.phase = .wait) ∧
    ((waiting [lvlIn false]).lineQ = true ∧ (waiting [lvlIn false]).input.line = false) ∧
    ¬((waiting [lvlIn true]).lineQ = true ∧ (waiting [lvlIn true]).input.line = false) := by decide

/-- The sampler two ticks before a sample. -/
def settling : State := { header 1 false true with settleCnt := 2 }

theorem test_witness_SettleTickCountsDown : settling.cfg.Wf ∧ settling.input.rst = false ∧ settling.mode = .sample ∧
    settling.phase = .settle ∧ 1 < settling.settleCnt := by decide

theorem test_witness_SampleComesSettleTicksAfterEdge :
    (waiting [lvlIn false, lvlIn true, lvlIn true]).cfg.Wf ∧ (waiting [lvlIn false, lvlIn true, lvlIn true]).mode = .sample ∧
    (waiting [lvlIn false, lvlIn true, lvlIn true]).phase = .wait ∧
    (waiting [lvlIn false, lvlIn true, lvlIn true]).inputs = lvlIn false :: ([lvlIn true] ++ lvlIn true :: []) ∧
    [lvlIn true].length + 1 = defaultCfg.settleTicks ∧ NoReset (lvlIn false :: ([lvlIn true] ++ [lvlIn true])) ∧
    (waiting [lvlIn false, lvlIn true, lvlIn true]).lineQ = true ∧ (lvlIn false).line = false := by decide

/-- A line that stays high; the premise also holds of a line that is low and rises, and of no ticks. -/
theorem test_witness_SilentLineWaitsForever :
    (waiting [lvlIn true, lvlIn true]).cfg.Wf ∧ (waiting [lvlIn true, lvlIn true]).mode = .sample ∧
    (waiting [lvlIn true, lvlIn true]).phase = .wait ∧
    (waiting [lvlIn true, lvlIn true]).inputs = [lvlIn true, lvlIn true] ++ [] ∧
    NoFall true [lvlIn true, lvlIn true] ∧ NoFall false [lvlIn false, lvlIn true] ∧ NoFall true [] := by
  refine ⟨by decide, rfl, rfl, rfl, ?_⟩
  simp [NoFall, lvlIn]

theorem test_witness_FaultStateIsFinal :
    (faulted [lvlIn false]).cfg.Wf ∧ (faulted [lvlIn false]).mode = .fault ∧
    (faulted [lvlIn false]).inputs = [lvlIn false] ++ [] ∧ NoReset [lvlIn false] ∧
    (faulted [⟨true, true⟩]).mode = .fault ∧ (faulted [⟨true, true⟩]).input.rst = true := by decide

/-- The first byte, the last token and the terminator. -/
theorem test_witness_EncoderTickSendsOneByte :
    (∀ e ∈ [0, 24, 25], (encoding e).cfg.Wf ∧ (encoding e).input.rst = false ∧ (encoding e).mode = .encode) ∧
    (outList defaultCfg (encoding 0).buf)[0]? = some 0x31#8 ∧ (outList defaultCfg (encoding 24).buf)[24]? = some 0x00#8 ∧
    (outList defaultCfg (encoding 25).buf)[25]? = some 0x0A#8 ∧
    (encoding 25).eidx + 1 = (outList (encoding 25).cfg (encoding 25).buf).length := by decide

/-- One byte left to send. -/
theorem test_witness_EncodingSendsOutputList :
    (encoding 25).cfg.Wf ∧ (encoding 25).mode = .encode ∧
    (encoding 25).inputs = [lvlIn true] ++ [] ∧ NoReset [lvlIn true] ∧
    (encoding 25).eidx + [lvlIn true].length = (outList (encoding 25).cfg (encoding 25).buf).length ∧
    [lvlIn true] ≠ [] := by decide

/-- An encoder past the buffer's end with an unrecognised Command Type. -/
def lost : State := { encoding 281 with buf := ⟨[(0, 0x07#8)]⟩ }

theorem test_witness_EveryTickAnswersANextState : lost.cfg.Wf := by decide

/-- The premises hold wherever the free count of the unrecognised code is large enough. -/
theorem test_witness_MissingSlotLoadsAreFree (h : 281 < Config.freeBits 0x07#8) :
    lost.cfg.Wf ∧ lost.input.rst = false ∧ lost.mode = .encode ∧ lost.cfg.debugEncoding = false ∧
    lost.eidx < bits (lost.buf.read 0) ∧ lost.cfg.bufSlots ≤ 2 + lost.eidx :=
  ⟨by decide, rfl, rfl, rfl, h, by decide⟩

/-- A machine in the idle delay. -/
def delaying : State := { State.reset with mode := .idle, idleCnt := 2, inputs := [lvlIn true, lvlIn true] }

/-- Fewer ticks than the delay, as many, and the one tick that a count of 0 takes. -/
theorem test_witness_IdleDelayLastsItsTicks :
    delaying.cfg.Wf ∧ delaying.mode = .idle ∧ NoReset [lvlIn true, lvlIn true] ∧
    delaying.inputs = [lvlIn true] ++ [lvlIn true] ∧ [lvlIn true].length < max 1 delaying.idleCnt ∧
    delaying.inputs = [lvlIn true, lvlIn true] ++ [] ∧ [lvlIn true, lvlIn true].length = max 1 delaying.idleCnt ∧
    [lvlIn true].length = max 1 ({ delaying with idleCnt := 0 } : State).idleCnt := by decide

/-- An emitting tick, a tick without a byte and a reset tick. -/
theorem test_witness_OutputStreamIsThePortsBytes :
    (∃ t, step (encoding 0) = .next t) ∧ (∃ t, step (idle true) = .next t) ∧
    ∃ t, step (faulted [⟨true, true⟩]) = .next t := ⟨⟨_, rfl⟩, ⟨_, rfl⟩, ⟨_, rfl⟩⟩

theorem test_witness_LineRegisterFollowsLine : (∃ t, step (idle true) = .next t) ∧
    ∃ t, step (faulted [⟨true, true⟩]) = .next t := ⟨⟨_, rfl⟩, ⟨_, rfl⟩⟩

theorem test_witness_EveryTickTakesOneInput : ∃ t, step (encoding 25) = .next t := ⟨_, rfl⟩

/-- A tick of each mode, a reset tick, and the two ways out of SAMPLE that a sample event can take. -/
theorem test_witness_ModesChangeOnlyAsListed :
    (∃ t, step (idle true) = .next t) ∧ (∃ t, step (encoding 25) = .next t) ∧
    (∃ t, step delaying = .next t) ∧ (∃ t, step (faulted [lvlIn false]) = .next t) ∧
    (∃ t, step (faulted [⟨true, true⟩]) = .next t) ∧
    (∃ t, step (capture 0x02#8 1 282 false) = .next t ∧ t.mode ≠ .sample) ∧
    ∃ t, step (capture 0x02#8 5 283 true) = .next t ∧ t.mode ≠ .sample :=
  ⟨⟨_, rfl⟩, ⟨_, rfl⟩, ⟨_, rfl⟩, ⟨_, rfl⟩, ⟨_, rfl⟩, ⟨_, rfl, by decide⟩, ⟨_, rfl, by decide⟩⟩

/-- The fourth capture event of a POLL frame, high level code x. -/
def fourth (x : Byte) : State :=
  { State.reset with
      phase := .settle, settleCnt := 1, hpos := 8, known := true, bitsRem := 30, wp := 5,
      buf := ⟨[(0, 0x01#8), (2, x), (3, 0x00#8), (4, x)]⟩, cfg := { defaultCfg with levelHighCode := x },
      inputs := [lvlIn true] }

theorem fourth_inv {x : Byte} (hx : x ≠ 0x00#8) : (fourth x).Inv where
  cfgWf := by simp [Cfg.Wf, fourth, defaultCfg, hx]
  bufWf := by simp [Memory.wf, fourth]
  bufWithin := by simp [Memory.within, fourth, defaultCfg]
  modeLive := .inl rfl
  noFault := rfl
  hposLe := le_rfl
  bitsRemLe := (by decide : 30 ≤ 281)
  wpLe := (by decide : 5 ≤ 283)
  settleLe := (by decide : 1 ≤ 2)
  eidxLe := (by decide : 0 ≤ 281)
  idleLe := (by decide : 0 ≤ 0)
  settlePos := fun _ _ => le_rfl
  unknownEarly := fun _ h => absurd h (by decide : ¬ 8 ≤ 5)
  knownType := fun _ _ => rfl
  headerWp := fun _ h => absurd h (by decide : ¬ 8 < 8)
  headerBits := fun _ h => absurd h (by decide : ¬ 8 < 8)
  captureCount := fun _ _ => ⟨rfl, (by decide : 1 ≤ 30), (by decide : 30 ≤ 33), rfl⟩
  captureSlots := fun _ _ i h1 h2 => by
    have h1 : 2 ≤ i := h1
    have h2 : i < 5 := h2
    obtain rfl | rfl | rfl : i = 2 ∨ i = 3 ∨ i = 4 := by omega
    · exact .inr rfl
    · exact .inl rfl
    · exact .inr rfl
  encoding := fun h => by cases h

/-- The last byte of an INFO frame, all samples low. -/
def sending : State :=
  { State.reset with
      mode := .encode, eidx := 25, buf := ⟨(List.range 27).map (fun i => (i, 0x00#8))⟩, inputs := [lvlIn true] }

theorem sending_inv : sending.Inv where
  cfgWf := by decide
  bufWf := by decide
  bufWithin := by decide
  modeLive := .inr rfl
  noFault := rfl
  hposLe := by decide
  bitsRemLe := by decide
  wpLe := by decide
  settleLe := by decide
  eidxLe := by decide
  idleLe := by decide
  settlePos := fun h => by cases h
  unknownEarly := fun h => by cases h
  knownType := fun h => by cases h
  headerWp := fun h => by cases h
  headerBits := fun h => by cases h
  captureCount := fun h => by cases h
  captureSlots := fun h => by cases h
  encoding := fun _ => ⟨rfl, by decide, fun i h1 h2 => by
    have h1 : 2 ≤ i := h1
    have h2 : i < 27 := h2
    exact .inl (by interval_cases i <;> rfl)⟩

/-- The first header event of a frame, with the invariant. -/
def first : State := { State.reset with phase := .settle, settleCnt := 1, inputs := [lvlIn true] }

theorem first_inv : first.Inv where
  cfgWf := by decide
  bufWf := by decide
  bufWithin := by decide
  modeLive := .inl rfl
  noFault := rfl
  hposLe := by decide
  bitsRemLe := by decide
  wpLe := by decide
  settleLe := by decide
  eidxLe := by decide
  idleLe := by decide
  settlePos := fun _ _ => le_rfl
  unknownEarly := fun _ _ => rfl
  knownType := fun _ h => by cases h
  headerWp := fun _ _ => rfl
  headerBits := fun _ _ h => by cases h
  captureCount := fun _ h => absurd h (by decide)
  captureSlots := fun _ h => absurd h (by decide)
  encoding := fun h => by cases h

/-- A tick that is no sample event, a header event and a capture event. -/
theorem test_witness_BufferIsWrittenOnlyBySampleEvents :
    (sending.Inv ∧ (∃ t, step sending = .next t) ∧ ¬ sending.AtSample) ∧
    (first.Inv ∧ (∃ t, step first = .next t) ∧ first.AtSample ∧ first.hpos < 8) ∧
    ((fourth 0x01#8).Inv ∧ (∃ t, step (fourth 0x01#8) = .next t) ∧ (fourth 0x01#8).AtSample ∧ (fourth 0x01#8).hpos = 8) :=
  ⟨⟨sending_inv, ⟨_, rfl⟩, by decide⟩, ⟨first_inv, ⟨_, rfl⟩, by decide⟩, ⟨fourth_inv (by decide), ⟨_, rfl⟩, by decide⟩⟩

theorem test_witness_InvariantKeptByEveryStep :
    (sending.Inv ∧ ∃ t, step sending = .next t) ∧ ((fourth 0x80#8).Inv ∧ ∃ t, step (fourth 0x80#8) = .next t) :=
  ⟨⟨sending_inv, ⟨_, rfl⟩⟩, ⟨fourth_inv (by decide), ⟨_, rfl⟩⟩⟩

theorem test_witness_FaultAndIdleAreUnreachable : first.Inv := first_inv

/-- The step that enters the fault state, and one that leaves it. -/
theorem test_witness_FaultCodeMirrorsFaultMode :
    ((capture 0x02#8 5 283 true).faultCode = 0 ∧ ((capture 0x02#8 5 283 true).faultCode ≠ 0 ↔
      (capture 0x02#8 5 283 true).mode = .fault) ∧ ∃ t, step (capture 0x02#8 5 283 true) = .next t) ∧
    ((faulted [⟨true, true⟩]).faultCode = 1 ∧ ((faulted [⟨true, true⟩]).faultCode ≠ 0 ↔
      (faulted [⟨true, true⟩]).mode = .fault) ∧ ∃ t, step (faulted [⟨true, true⟩]) = .next t) :=
  ⟨⟨rfl, by decide, ⟨_, rfl⟩⟩, ⟨rfl, by decide, ⟨_, rfl⟩⟩⟩

theorem test_witness_BufferStaysCanonicalAndInBounds :
    (capture 0x02#8 2 282 true).cfg.Wf ∧ (capture 0x02#8 2 282 true).buf.wf ∧
    (capture 0x02#8 2 282 true).buf.within (capture 0x02#8 2 282 true).cfg.bufSlots ∧
    (∃ t, step (capture 0x02#8 2 282 true) = .next t) ∧ ∃ t, exec (.rw 0#5 0#1) (capture 0x02#8 2 282 true) = .next t :=
  ⟨by decide, by decide, by decide, ⟨_, rfl⟩, ⟨_, rfl⟩⟩

theorem test_witness_SlotCharactersTestOnlyZero : defaultCfg.Wf := by decide

/-- Each Command Type. -/
theorem test_witness_CompactListLengthAndAlphabet : defaultCfg.Wf ∧
    ∀ c : Command, recognized (Memory.read ⟨[(0, code c)]⟩ 0) = true ∧ Memory.read ⟨[(0, code c)]⟩ 0 = code c := by
  refine ⟨by decide, ?_⟩
  intro c; cases c <;> decide

theorem test_witness_DebugListByPosition : defaultCfg.Wf ∧
    ∀ c : Command, Memory.read ⟨[(0, code c)]⟩ 0 = code c := by
  refine ⟨by decide, ?_⟩
  intro c; cases c <;> decide

/-- The start of a frame with the header of i and n high samples on the line, then a high line for q ticks. -/
def frameOnLine (c : Cfg) (i : Instr) (n q : Nat) : State :=
  { State.reset with
      cfg := c, inputs := lineScript c.settleTicks (encode i ++ List.replicate n true) ++ List.replicate q (lvlIn true) }

theorem quiet_noReset (q : Nat) : NoReset (List.replicate q (lvlIn true)) := by simp [NoReset, lvlIn]

/-- A POLL frame cut short, and a whole frame of every command. -/
theorem test_witness_SampledFrameFillsBuffer (i : Instr) :
    (∀ n, (frameOnLine defaultCfg i n 0).cfg.Wf ∧ (frameOnLine defaultCfg i n 0).AtFrameStart ∧
      (frameOnLine defaultCfg i n 0).inputs =
        lineScript defaultCfg.settleTicks (encode i ++ List.replicate n true) ++ []) ∧
    (List.replicate 20 true).length < bits (code (Instr.poll 0#5).command) ∧
    (List.replicate (bits (code i.command)) true).length = bits (code i.command) :=
  ⟨fun _ => ⟨(by decide : defaultCfg.Wf), ⟨rfl, rfl, rfl, rfl⟩, rfl⟩, by decide, List.length_replicate⟩

/-- A frame of every command. -/
theorem test_witness_CompactFrameRoundTrip (i : Instr) : ∃ n q, n = bits (code i.command) ∧ q = n + 1 ∧
    (frameOnLine defaultCfg i n q).cfg.Wf ∧ (frameOnLine defaultCfg i n q).cfg.debugEncoding = false ∧
    (frameOnLine defaultCfg i n q).AtFrameStart ∧ (List.replicate n true).length = bits (code i.command) ∧
    (frameOnLine defaultCfg i n q).inputs = lineScript defaultCfg.settleTicks (encode i ++ List.replicate n true) ++
      List.replicate q (lvlIn true) ++ [] ∧ NoReset (List.replicate q (lvlIn true)) ∧
    (List.replicate q (lvlIn true)).length = (List.replicate n true).length + 1 :=
  ⟨_, _, rfl, rfl, (by decide : defaultCfg.Wf), rfl, ⟨rfl, rfl, rfl, rfl⟩, List.length_replicate, (List.append_nil _).symm, quiet_noReset _,
    by simp⟩

/-- The default configuration with the debug encoding. -/
def debugCfg : Cfg := { defaultCfg with debugEncoding := true }

/-- A frame of every command: INFO and RESET, with 25 samples, show seven slots of earlier frames. -/
theorem test_witness_DebugFrameShowsStaleSlots (i : Instr) : ∃ n q, n = bits (code i.command) ∧
    (frameOnLine debugCfg i n q).cfg.Wf ∧ (frameOnLine debugCfg i n q).cfg.debugEncoding = true ∧
    (frameOnLine debugCfg i n q).AtFrameStart ∧ (List.replicate n true).length = bits (code i.command) ∧
    (frameOnLine debugCfg i n q).inputs = lineScript debugCfg.settleTicks (encode i ++ List.replicate n true) ++
      List.replicate q (lvlIn true) ++ [] ∧ NoReset (List.replicate q (lvlIn true)) ∧
    (List.replicate q (lvlIn true)).length = (dec (code i.command)).length + 37 :=
  ⟨_, (dec (code i.command)).length + 37, rfl, (by decide : debugCfg.Wf), rfl, ⟨rfl, rfl, rfl, rfl⟩, List.length_replicate,
    (List.append_nil _).symm, quiet_noReset _, by simp⟩

/-- A 25-sample frame leaves bit characters 25 to 31 to the slots of earlier frames. -/
theorem test_info_frame_has_stale_characters : bits (code (Instr.info 0#5).command) = 25 ∧
    (List.replicate 25 true)[25]? = none ∧ (List.replicate 25 true)[24]? = some true := by decide

theorem test_witness_HighLevelCodeIsInvisible :
    (fourth 0x01#8).Inv ∧ (fourth 0x80#8).Inv ∧ (fourth 0x01#8).SameButHighCode (fourth 0x80#8) ∧
    ∃ t, step (fourth 0x01#8) = .next t := by
  refine ⟨fourth_inv (by decide), fourth_inv (by decide), ⟨rfl, rfl, ?_⟩, ⟨_, rfl⟩⟩
  intro i
  by_cases h0 : i = 0
  · subst h0; rfl
  by_cases h2 : i = 2
  · subst h2; rfl
  by_cases h3 : i = 3
  · subst h3; rfl
  by_cases h4 : i = 4
  · subst h4; rfl
  simp [Memory.read, lookupCell, fourth, Ne.symm h0, Ne.symm h2, Ne.symm h3, Ne.symm h4]

theorem test_witness_OutputIsNeverReadBack : ∃ t, step (encoding 0) = .next t := ⟨_, rfl⟩

end Sys2Proof.Tests.Slice0
end

section
/-! PROOFS. The scope of spec/00_scope.md: which configurations a step refuses (R8), and the encoder's loads from slots the
buffer has not (R9; log entries 8 and 11). -/

namespace Sys2Proof.Machine

section Totality

/-- A tick without reset always answers a next state, in each of the four modes (R86). -/
theorem modeTick_next (s : State) : ∃ t, modeTick s = .next t := by
  cases hm : s.mode with
  | sample => simpa [modeTick, hm] using samplerTick_next s
  | encode => simpa [modeTick, hm] using encoderTick_next s
  | idle =>
    simp only [modeTick, hm, idleTick]
    split_ifs <;> exact ⟨_, rfl⟩
  | fault => exact ⟨s.tickOver, by simp only [modeTick, hm, faultTick]⟩

/-- A step under a well-formed configuration always answers a next state (R86). -/
theorem step_next_of_wf {s : State} (hw : s.cfg.Wf) : ∃ t, step s = .next t := by
  cases hr : s.input.rst with
  | true => exact ⟨s.resetTick, step_reset hw hr⟩
  | false => rw [step_noReset hw hr]; exact modeTick_next s

/-- What a step under an ill-formed configuration is (R8). -/
theorem step_of_not_wf {s : State} (hw : ¬ s.cfg.Wf) : step s = .refused .illFormedConfiguration := by
  rw [step, if_neg hw]

end Totality

/-- Settles O16: an ill-formed configuration never gets past step's guard, and behind the guard every tick answers a next
state, which is no refusal. -/
theorem illFormedConfigurationIsRefused : Obligations.IllFormedConfigurationIsRefused := by
  intro s
  refine ⟨step_of_not_wf, fun hw r hr => ?_⟩
  obtain ⟨t, ht⟩ := step_next_of_wf hw
  rw [ht] at hr
  cases hr

section CompactList

/-- The output list of a compact build (R55). -/
theorem outList_of_compact {c : Cfg} (h : c.debugEncoding = false) (m : Memory) : outList c m = cmpSeq c m := by
  simp [outList, h]

/-- One byte per sample of slot 0's count, and the terminator (R77, R79). -/
@[simp] theorem length_cmpSeq (c : Cfg) (m : Memory) : (cmpSeq c m).length = bits (m.read 0) + 1 := by
  simp [cmpSeq]

/-- Byte i of the compact list before the terminator is the token of slot ENC_BASE + i (R77, R78). -/
theorem cmpSeq_getElem?_of_lt {m : Memory} {i : Nat} (c : Cfg) (h : i < bits (m.read 0)) :
    (cmpSeq c m)[i]? = some (token c (load c m (c.encBase + i))) := by
  rw [cmpSeq, List.getElem?_append_left (by simpa using h)]
  simp [h]

/-- A load from a slot the buffer has not (log entry 11). -/
theorem load_of_le {c : Cfg} {i : Nat} (h : c.bufSlots ≤ i) (m : Memory) : load c m i = Config.noSlot i := by
  simp [load, Nat.not_lt.mpr h]

/-- Only a frame of an unrecognised type can ask for a slot the buffer has not: the recognised counts end at 281, and the
buffer has at least 283 slots (R7, R46, R78). -/
theorem recognized_eq_false_of_load_missing {c : Cfg} {b : Byte} {i : Nat} (hw : c.Wf) (hi : i < bits b)
    (hs : c.bufSlots ≤ 2 + i) : recognized b = false := by
  rw [← Bool.not_eq_true]
  intro hr
  obtain ⟨_, hslots, _⟩ := hw
  have hmax : bits b ≤ 281 := (bits_of_recognized hr).2
  omega

/-- The byte an encoder tick of a compact build sends while tokens are left (R77, R90). -/
theorem State.outByte_of_compact_token {s : State} (hd : s.cfg.debugEncoding = false)
    (hi : s.eidx < bits (s.buf.read 0)) : s.outByte = token s.cfg (load s.cfg s.buf (s.cfg.encBase + s.eidx)) := by
  rw [State.outByte, outList_of_compact hd, cmpSeq_getElem?_of_lt s.cfg hi, Option.getD_some]

/-- An encoder tick before the last byte of the list sends one byte and counts eidx; only line_q changes besides (R90). -/
theorem step_encode_of_not_last {s : State} (hw : s.cfg.Wf) (hr : s.input.rst = false) (hm : s.mode = .encode)
    (hl : s.eidx + 1 ≠ (outList s.cfg s.buf).length) :
    step s = .next { s.onlyLine with sent := s.sent ++ [s.outByte], eidx := s.eidx + 1 } := by
  rw [step_encode hw hr hm, encoderTick, if_neg hl]
  rfl

end CompactList

/-- Settles O25: past the buffer's end slot 0 cannot hold a recognised code, and the tick is an ordinary token tick whose
load gives the free byte of its slot index. -/
theorem missingSlotLoadsAreFree : Obligations.MissingSlotLoadsAreFree := by
  intro s hw hr hm hd hi hs
  refine ⟨recognized_eq_false_of_load_missing hw hi hs, ?_⟩
  have hbase : s.cfg.encBase = 2 := by
    obtain ⟨_, _, _, _, hbase, _⟩ := hw
    exact hbase
  have hlast : s.eidx + 1 ≠ (outList s.cfg s.buf).length := by
    rw [outList_of_compact hd, length_cmpSeq]
    omega
  have hbyte : s.outByte = token s.cfg (Config.noSlot (2 + s.eidx)) := by
    rw [State.outByte_of_compact_token hd hi, hbase, load_of_le hs]
  rw [step_encode_of_not_last hw hr hm hlast, hbyte]

end Sys2Proof.Machine
end

section
/-! PROOFS. The invariant of spec/10_state.md R30: it holds at the start of every frame, and every tick keeps it. One lemma per
way a tick can go, each naming the fields of the invariant that the tick's writes touch. -/

namespace Sys2Proof.Machine

section Configuration

/-- The first stored sample goes to slot 2 (R7). -/
theorem captureBase_eq {c : Cfg} (hw : c.Wf) : c.captureBase = 2 := by
  obtain ⟨_, _, _, hbase, _⟩ := hw
  exact hbase

/-- The buffer holds a frame of the longest command (R7). -/
theorem bufSlots_ge {c : Cfg} (hw : c.Wf) : 283 ≤ c.bufSlots := by
  obtain ⟨_, hslots, _⟩ := hw
  exact hslots

end Configuration

section ListLengths

/-- A byte has at most three decimal digits (R81). -/
theorem length_dec_le (b : Byte) : (dec b).length ≤ 3 := by
  simp only [dec]
  split_ifs <;> simp

/-- A bit character comes with at most one group separator (R83). -/
theorem length_dbgItem_le (c : Cfg) (m : Memory) (i : Nat) : (dbgItem c m i).length ≤ 2 := by
  simp only [dbgItem, List.length_append, List.length_singleton]
  split_ifs <;> simp

/-- The debug list is far below the range of eidx, whatever the buffer holds (R20, R84). -/
theorem length_dbgSeq_le {c : Cfg} (hw : c.Wf) (m : Memory) : (dbgSeq c m).length ≤ 69 := by
  obtain ⟨_, _, _, _, _, _, hbits, _⟩ := hw
  have hdec := length_dec_le (m.read 0)
  have hitems : ((List.range c.dbgBits).flatMap (dbgItem c m)).length ≤ c.dbgBits * 2 := by
    rw [List.length_flatMap]
    calc ((List.range c.dbgBits).map fun i => (dbgItem c m i).length).sum
        ≤ ((List.range c.dbgBits).map fun i => (dbgItem c m i).length).length • 2 :=
          List.sum_le_card_nsmul _ _ (by simpa using fun i _ => length_dbgItem_le c m i)
      _ = c.dbgBits * 2 := by simp
  simp only [dbgSeq, List.length_append, List.length_singleton]
  omega

/-- The output list of a recognised frame fits the range of eidx (R20, R79, R84). -/
theorem length_outList_le {c : Cfg} {m : Memory} (hw : c.Wf) (hr : recognized (m.read 0) = true) :
    (outList c m).length ≤ 282 := by
  unfold outList
  split_ifs
  · exact (length_dbgSeq_le hw m).trans (by decide)
  · rw [length_cmpSeq]
    have hmax := (bits_of_recognized hr).2
    omega

/-- Both output lists end in a terminator, so neither is empty (R79, R84). -/
theorem length_outList_pos (c : Cfg) (m : Memory) : 0 < (outList c m).length := by
  unfold outList
  split_ifs
  · simp [dbgSeq]
  · simp

end ListLengths

section StoredLevels

/-- What a capture event stores is a stored level (R33). -/
theorem isStored_lvl (c : Cfg) (v : Level) : IsStored c (lvl c v) := by
  cases v
  · exact .inl rfl
  · exact .inr rfl

end StoredLevels

section Invariant
variable {s t : State}

/-- A state at the start of a frame has the invariant, whatever the buffer holds (R87, R29). -/
theorem State.Inv.of_frameStart (hw : s.cfg.Wf) (hbuf : s.buf.wf) (hin : s.buf.within s.cfg.bufSlots)
    (hstart : s.AtFrameStart) (hfault : s.faultCode = 0) (hbits : s.bitsRem = 0) (hwp : s.wp = s.cfg.captureBase)
    (hsettle : s.settleCnt = 0) (heidx : s.eidx = 0) (hidle : s.idleCnt = 0) : s.Inv := by
  obtain ⟨hmode, hphase, hhpos, hknown⟩ := hstart
  have hbase : s.cfg.captureBase = 2 := captureBase_eq hw
  exact {
    cfgWf := hw
    bufWf := hbuf
    bufWithin := hin
    modeLive := .inl hmode
    noFault := hfault
    hposLe := by omega
    bitsRemLe := by omega
    wpLe := by omega
    settleLe := by omega
    eidxLe := by omega
    idleLe := by omega
    settlePos := fun _ h => by simp [hphase] at h
    unknownEarly := fun _ _ => hknown
    knownType := fun _ h => by simp [hknown] at h
    headerWp := fun _ _ => hwp
    headerBits := fun _ _ h => by simp [hknown] at h
    captureCount := fun _ h => by omega
    captureSlots := fun _ h => by omega
    encoding := fun h => by simp [hmode] at h }

/-- A reset tick starts a frame (R105). -/
theorem State.Inv.resetTick (h : s.Inv) : s.resetTick.Inv :=
  .of_frameStart h.cfgWf h.bufWf h.bufWithin ⟨rfl, rfl, rfl, rfl⟩ rfl rfl rfl rfl rfl rfl

/-- ENTER_SAMPLE starts a frame (R87). -/
theorem State.Inv.enterSample (h : s.Inv) : s.enterSample.Inv :=
  .of_frameStart h.cfgWf h.bufWf h.bufWithin ⟨rfl, rfl, rfl, rfl⟩ h.noFault rfl rfl rfl rfl rfl

/-- The invariant does not speak of the inputs, the tick number or line_q (R30). -/
theorem State.Inv.tickOver (h : s.Inv) : s.tickOver.Inv := { h with }

/-- The invariant does not speak of the output stream (R27). -/
theorem State.Inv.emit (h : s.Inv) (b : Byte) : (s.emit b).Inv := { h with }

/-- An accepted edge loads the settle counter with at least 1 (R58). -/
theorem State.Inv.acceptEdge (h : s.Inv) : { s with settleCnt := s.cfg.settleTicks, phase := .settle : State }.Inv :=
  { h with
    settleLe := le_rfl
    settlePos := fun _ _ => h.cfgWf.1 }

/-- The settle interval counts down to 1 and no further (R59). -/
theorem State.Inv.settleDown (h : s.Inv) (hc : 1 < s.settleCnt) : { s with settleCnt := s.settleCnt - 1 : State }.Inv :=
  { h with
    settleLe := (Nat.sub_le _ _).trans h.settleLe
    settlePos := fun _ _ => Nat.le_sub_one_of_lt hc }

/-- A header sample that classifies nothing; the eighth finds the command known (R62, R64). -/
theorem State.Inv.countHeaderSample (h : s.Inv) (hm : s.mode = .sample) (hp : s.hpos < 8)
    (hlast : s.hpos = 7 → s.known = true) : s.countHeaderSample.Inv := by
  have hwp : s.countHeaderSample.wp = s.cfg.captureBase := by
    rw [State.countHeaderSample_wp, h.headerWp hm hp, ite_self]
  exact { h with
    hposLe := hp
    wpLe := by
      rw [hwp, ← h.headerWp hm hp]
      exact h.wpLe
    settlePos := fun _ hs => by simp at hs
    unknownEarly := fun _ hs => h.unknownEarly hm (Nat.le_of_succ_le hs)
    headerWp := fun _ _ => hwp
    headerBits := fun _ _ hk => h.headerBits hm hp hk
    captureCount := fun _ hs => by
      have hk : s.known = true := hlast (Nat.succ.inj hs)
      have hbits : s.bitsRem = bits (s.buf.read 0) := h.headerBits hm hp hk
      have hpos : 25 ≤ bits (s.buf.read 0) := (bits_of_recognized (h.knownType hm hk)).1
      refine ⟨hk, ?_, hbits.le, ?_⟩
      · rw [State.countHeaderSample_bitsRem]
        omega
      · rw [hwp, State.countHeaderSample_bitsRem, hbits]
        rfl
    captureSlots := fun _ _ i h1 h2 => absurd h2 (by rw [hwp]; exact Nat.not_lt.mpr h1) }

/-- The header sample that classifies command c: the buffer carries its code and bits_rem its count (R62, R63). -/
theorem State.Inv.classify_countHeaderSample (h : s.Inv) (hm : s.mode = .sample) (hp : s.hpos < 8) (h6 : 6 ≤ s.hpos + 1)
    (c : Command) : (s.classify c).countHeaderSample.Inv := by
  have hwp : (s.classify c).countHeaderSample.wp = s.cfg.captureBase := by
    simp [h.headerWp hm hp]
  have hread : (s.classify c).countHeaderSample.buf.read 0 = code c := by simp
  have hbits := bits_of_recognized (recognized_code c)
  exact { h with
    bufWf := Memory.write_wf h.bufWf 0 (code c)
    bufWithin := Memory.write_within h.bufWithin (Nat.lt_of_lt_of_le (by decide) (bufSlots_ge h.cfgWf)) (code c)
    hposLe := hp
    bitsRemLe := hbits.2
    wpLe := by
      rw [hwp, ← h.headerWp hm hp]
      exact h.wpLe
    settlePos := fun _ hs => by simp at hs
    unknownEarly := fun _ hs => absurd hs (by simp; omega)
    knownType := fun _ _ => by rw [hread, recognized_code]
    headerWp := fun _ _ => hwp
    headerBits := fun _ _ _ => by rw [hread]; rfl
    captureCount := fun _ _ => by
      rw [hread, hwp]
      exact ⟨rfl, by simp; omega, le_rfl, rfl⟩
    captureSlots := fun _ _ i h1 h2 => absurd h2 (by rw [hwp]; exact Nat.not_lt.mpr h1)
    encoding := fun hs => by simp [hm] at hs }

/-- Through the read phase wp stands in the buffer, above slot 0 and below the end of the longest frame (R30 items 4 and 7,
R92): a capture event never overruns. -/
theorem State.Inv.capture_wp (h : s.Inv) (hm : s.mode = .sample) (hp : s.hpos = 8) :
    s.wp ≠ 0 ∧ s.wp < 283 ∧ s.wp < s.cfg.bufSlots := by
  obtain ⟨hknown, hpos, hle, hsum⟩ := h.captureCount hm hp
  have hmax : bits (s.buf.read 0) ≤ 281 := (bits_of_recognized (h.knownType hm hknown)).2
  have hbase := captureBase_eq h.cfgWf
  have hslots := bufSlots_ge h.cfgWf
  omega

/-- The count of an in-range capture event is a plain decrement (R16). -/
theorem State.Inv.countDown_add_one (h : s.Inv) (hm : s.mode = .sample) (hp : s.hpos = 8) :
    s.countDown + 1 = s.bitsRem := by
  obtain ⟨_, hpos, _, _⟩ := h.captureCount hm hp
  rw [State.countDown, if_neg (by omega), Nat.sub_add_cancel hpos]

/-- A capture event leaves slot 0 alone (R37). -/
theorem State.Inv.storeSample_read_zero (h : s.Inv) (hm : s.mode = .sample) (hp : s.hpos = 8) :
    s.storeSample.buf.read 0 = s.buf.read 0 :=
  Memory.read_write_other (h.capture_wp hm hp).1.symm _ _

/-- After a capture event the slots below the new wp hold stored levels (R33). -/
theorem State.Inv.storeSample_isStored (h : s.Inv) (hm : s.mode = .sample) (hp : s.hpos = 8) (i : Nat)
    (h1 : s.cfg.captureBase ≤ i) (h2 : i < s.wp + 1) : IsStored s.cfg (s.storeSample.buf.read i) := by
  rw [State.storeSample_buf, Memory.read_write]
  split_ifs with hi
  · exact isStored_lvl _ _
  · exact h.captureSlots hm hp i h1 (by omega)

/-- A capture event that leaves samples to store (R71). -/
theorem State.Inv.storeSample_wait (h : s.Inv) (hm : s.mode = .sample) (hp : s.hpos = 8) (hc : s.countDown ≠ 0) :
    { s.storeSample with phase := .wait : State }.Inv := by
  obtain ⟨_, hwp, hslot⟩ := h.capture_wp hm hp
  have hdown := h.countDown_add_one hm hp
  have hread := h.storeSample_read_zero hm hp
  obtain ⟨hknown, _, hle, hsum⟩ := h.captureCount hm hp
  have hrange := h.bitsRemLe
  exact { h with
    bufWf := Memory.write_wf h.bufWf _ _
    bufWithin := Memory.write_within h.bufWithin hslot _
    bitsRemLe := by rw [State.storeSample_bitsRem]; omega
    wpLe := hwp
    settlePos := fun _ hs => by simp at hs
    knownType := fun _ _ => by rw [hread]; exact h.knownType hm hknown
    headerBits := fun _ hs => absurd hp hs.ne
    headerWp := fun _ hs => absurd hp hs.ne
    captureCount := fun _ _ => by
      rw [hread]
      refine ⟨hknown, Nat.one_le_iff_ne_zero.mpr hc, ?_, ?_⟩
      · rw [State.storeSample_bitsRem]
        omega
      · rw [State.storeSample_wp, State.storeSample_bitsRem, State.storeSample_cfg, ← hsum]
        omega
    captureSlots := fun _ _ => h.storeSample_isStored hm hp
    encoding := fun hs => by simp [hm] at hs }

/-- The capture event that stores the last sample hands the full frame to the encoder (R71, R88). -/
theorem State.Inv.storeSample_handOff (h : s.Inv) (hm : s.mode = .sample) (hp : s.hpos = 8) (hc : s.countDown = 0) :
    (s.storeSample.handOff (s.buf.read 0)).Inv := by
  obtain ⟨_, hwp, hslot⟩ := h.capture_wp hm hp
  have hdown := h.countDown_add_one hm hp
  have hread := h.storeSample_read_zero hm hp
  obtain ⟨hknown, _, _, hsum⟩ := h.captureCount hm hp
  have htype : recognized (s.buf.read 0) = true := h.knownType hm hknown
  rw [State.handOff_recognized htype]
  exact { h with
    bufWf := Memory.write_wf h.bufWf _ _
    bufWithin := Memory.write_within h.bufWithin hslot _
    modeLive := .inr rfl
    bitsRemLe := by rw [State.storeSample_bitsRem]; omega
    wpLe := hwp
    eidxLe := Nat.zero_le _
    settlePos := fun hs => by cases hs
    unknownEarly := fun hs => by cases hs
    knownType := fun hs => by cases hs
    headerWp := fun hs => by cases hs
    headerBits := fun hs => by cases hs
    captureCount := fun hs => by cases hs
    captureSlots := fun hs => by cases hs
    encoding := fun _ => by
      refine ⟨by rw [hread]; exact htype, length_outList_pos _ _, fun i h1 h2 => h.storeSample_isStored hm hp i h1 ?_⟩
      rw [hread] at h2
      simp only [State.storeSample_cfg] at h2
      omega }

/-- An encoder tick before the last byte counts eidx, which stays inside the list (R90, R20). -/
theorem State.Inv.encodeNext (h : s.Inv) (hm : s.mode = .encode) (hl : s.eidx + 1 ≠ (outList s.cfg s.buf).length) :
    { s with eidx := s.eidx + 1 : State }.Inv := by
  obtain ⟨htype, hlt, hslots⟩ := h.encoding hm
  have hlen := length_outList_le h.cfgWf htype
  exact { h with
    eidxLe := by show s.eidx + 1 ≤ 281; omega
    encoding := fun _ => ⟨htype, Nat.lt_of_le_of_ne hlt hl, hslots⟩ }

/-- The eighth header sample leaves a known command: INFO is what none of the others is (R62, R64). -/
theorem known_of_eighth_sample (hp : s.hpos = 7) (h : sampleTick s = .next t) : t.known = true := by
  have h8 : s.hpos < 8 := by omega
  cases hk : s.known with
  | true =>
    rcases sampleTick_header_cases h8 h with rfl | ⟨c, _, _, rfl⟩
    · exact hk
    · rfl
  | false =>
    obtain ⟨c, hc⟩ : ∃ c, sampleTick s = .next (s.tickOver.classify c).countHeaderSample := by
      rw [sampleTick_header h8]
      cases hv : s.input.line with
      | true => exact ⟨.poll, by simp [hp, hk]⟩
      | false => exact ⟨.info, by simp [hp, hk]⟩
    rw [hc] at h
    cases h
    rfl

/-- Every header event keeps the invariant (R62). -/
theorem State.Inv.headerSample (h : s.Inv) (hm : s.mode = .sample) (hp : s.hpos < 8) (ht : sampleTick s = .next t) :
    t.Inv := by
  have hlast : s.hpos = 7 → t.known = true := fun h7 => known_of_eighth_sample h7 ht
  rcases sampleTick_header_cases hp ht with rfl | ⟨c, h6, _, rfl⟩
  · exact h.tickOver.countHeaderSample hm hp hlast
  · exact h.tickOver.classify_countHeaderSample hm hp h6 c

/-- Every capture event keeps the invariant, and none overruns (R71, R92). -/
theorem State.Inv.captureSample (h : s.Inv) (hm : s.mode = .sample) (hp : s.hpos = 8) : s.captureSample.Inv := by
  rcases State.captureSample_cases s with ⟨hover, _⟩ | ⟨_, hc, e⟩ | ⟨_, hc, e⟩
  · obtain ⟨_, _, hslot⟩ := h.capture_wp hm hp
    omega
  · rw [e]
    exact h.storeSample_handOff hm hp hc
  · rw [e]
    exact h.storeSample_wait hm hp hc

/-- Every tick of the sampler keeps the invariant (R58 to R61). -/
theorem State.Inv.samplerTick (h : s.Inv) (hm : s.mode = .sample) (ht : samplerTick s = .next t) : t.Inv := by
  rcases samplerTick_cases ht with ⟨_, _, rfl⟩ | ⟨_, _, rfl⟩ | ⟨_, hc, rfl⟩ | ⟨_, _, rfl⟩ | ⟨_, _, hp, hs⟩ | ⟨_, _, hp, rfl⟩
  · exact h.tickOver
  · exact h.tickOver.acceptEdge
  · exact h.tickOver.settleDown hc
  · exact h.tickOver
  · exact h.headerSample hm hp hs
  · exact h.captureSample hm hp

/-- Every tick of the encoder keeps the invariant (R90). -/
theorem State.Inv.encoderTick (h : s.Inv) (hm : s.mode = .encode) (ht : encoderTick s = .next t) : t.Inv := by
  rcases encoderTick_cases ht with ⟨_, rfl⟩ | ⟨hl, rfl⟩
  · exact (h.tickOver.emit _).enterSample
  · exact (h.tickOver.emit _).encodeNext hm hl

/-- Every step keeps the invariant; IDLE and FAULT have no tick to consider, since the invariant excludes them (R30). -/
theorem State.Inv.step (h : s.Inv) (ht : step s = .next t) : t.Inv := by
  obtain ⟨_, ⟨_, rfl⟩ | ⟨_, hmode⟩⟩ := step_cases ht
  · exact h.resetTick
  rcases modeTick_cases hmode with ⟨hm, htick⟩ | ⟨hm, htick⟩ | ⟨hm, _⟩ | ⟨hm, _⟩
  · exact h.samplerTick hm htick
  · exact h.encoderTick hm htick
  · have hlive := h.modeLive
    simp [hm] at hlive
  · have hlive := h.modeLive
    simp [hm] at hlive

end Invariant

/-- Settles O33: the next state exists under any well-formed configuration, and each way a tick can go keeps the invariant. -/
theorem invariantKeptByEveryStep : Obligations.InvariantKeptByEveryStep :=
  fun _ h => ⟨step_next_of_wf h.cfgWf, fun _ ht => h.step ht⟩

/-- Settles O32: the state after reset is the start of a frame over an empty buffer. -/
theorem invariantHoldsAtReset : Obligations.InvariantHoldsAtReset :=
  .of_frameStart (by decide) reset_buf_wf (by simp [Memory.within, State.reset]) ⟨rfl, rfl, rfl, rfl⟩ rfl rfl rfl rfl rfl rfl

end Sys2Proof.Machine
end

section
/-! PROOFS. The registers and ports of spec/10_state.md: the values after reset (R29), line_q (R19), fault_code (R23), the output
stream at the port (R11), and the sample events outside the registers' ranges (log entries 7 and 9). -/

namespace Sys2Proof.Machine

/-- Settles O15: the table's values are read off State.reset, and its buffer lists no slot. -/
theorem resetStateHasTheTableValues : Obligations.ResetStateHasTheTableValues :=
  ⟨rfl, rfl, rfl, rfl, rfl, rfl, rfl, rfl, rfl, rfl, rfl, rfl, rfl, rfl, fun _ => rfl⟩

section OutOfRange
variable {s : State}

/-- With hpos above 8 no command has a sample event: only line_q changes (log entry 7). -/
theorem exec_of_hpos_gt (i : Instr) (h : 8 < s.hpos) : exec i s = .next s.tickOver := by
  rw [exec_eq, commandSample, if_neg (by omega), if_neg (by omega)]

/-- The read phase of every command is the shared loop's (R73). -/
theorem exec_capture (i : Instr) (h : s.hpos = 8) : exec i s = .next s.captureSample := by
  rw [exec_eq, commandSample_capture h]

/-- The count below zero is a free value (log entry 9). -/
theorem State.countDown_of_zero (h : s.bitsRem = 0) : s.countDown = Config.freeCount s.tick := by
  rw [State.countDown, if_pos h]

/-- A store with bits_rem = 0 leaves a free count (log entry 9). -/
theorem State.storeSample_of_bitsRem_zero (h : s.bitsRem = 0) : s.storeSample = { s.onlyLine with
    buf := s.buf.write s.wp (lvl s.cfg s.input.line), wp := s.wp + 1, bitsRem := Config.freeCount s.tick } := by
  rw [State.storeSample, State.countDown_of_zero h]
  rfl

/-- An in-range capture event that brings the count to zero hands off (R71, R88). -/
theorem State.captureSample_last (hw : s.wp < s.cfg.bufSlots) (hc : s.countDown = 0) :
    s.captureSample = s.storeSample.handOff (s.buf.read 0) := by
  rw [State.captureSample, if_neg (by omega), if_pos hc]

/-- An in-range capture event that leaves a count waits for the next edge (R71). -/
theorem State.captureSample_more (hw : s.wp < s.cfg.bufSlots) (hc : s.countDown ≠ 0) :
    s.captureSample = { s.storeSample with phase := .wait } := by
  rw [State.captureSample, if_neg (by omega), if_neg hc]

end OutOfRange

/-- Settles O13: above 8 neither case of R61 applies; at 8 the capture event runs with the free count for bits_rem - 1. -/
theorem sampleEventsOutsideTheRanges : Obligations.SampleEventsOutsideTheRanges := by
  intro i s
  refine ⟨exec_of_hpos_gt i, fun hp hw hz => ?_⟩
  dsimp only
  rw [exec_capture i hp, ← State.storeSample_of_bitsRem_zero hz, ← State.countDown_of_zero hz]
  constructor
  · intro hc
    exact congrArg Host.Outcome.next (State.captureSample_last hw hc)
  · intro hc
    exact congrArg Host.Outcome.next (State.captureSample_more hw hc)

section Frames
variable {s t : State}

/-- A capture event samples the line and sends nothing, whichever way it goes (R19, R71). -/
theorem State.captureSample_lineQ_sent (s : State) :
    s.captureSample.lineQ = s.input.line ∧ s.captureSample.sent = s.sent := by
  rcases State.captureSample_cases s with ⟨_, e⟩ | ⟨_, _, e⟩ | ⟨_, _, e⟩
  · rw [e]
    exact ⟨rfl, rfl⟩
  · obtain ⟨hline, _, _, _, _, hsent, _⟩ := State.handOff_frame s.storeSample (s.buf.read 0)
    rw [e, hline, hsent]
    exact ⟨rfl, rfl⟩
  · rw [e]
    exact ⟨rfl, rfl⟩

/-- A sampler tick samples the line and sends nothing (R11, R19). -/
theorem samplerTick_lineQ_sent (h : samplerTick s = .next t) : t.lineQ = s.input.line ∧ t.sent = s.sent := by
  rcases samplerTick_cases h with ⟨_, _, rfl⟩ | ⟨_, _, rfl⟩ | ⟨_, _, rfl⟩ | ⟨_, _, rfl⟩ | ⟨_, _, hp, hs⟩ | ⟨_, _, _, rfl⟩
  · exact ⟨rfl, rfl⟩
  · exact ⟨rfl, rfl⟩
  · exact ⟨rfl, rfl⟩
  · exact ⟨rfl, rfl⟩
  · rcases sampleTick_header_cases hp hs with rfl | ⟨c, _, _, rfl⟩ <;> exact ⟨rfl, rfl⟩
  · exact s.captureSample_lineQ_sent

/-- An encoder tick samples the line and sends one byte (R19, R90). -/
theorem encoderTick_lineQ_sent (h : encoderTick s = .next t) :
    t.lineQ = s.input.line ∧ t.sent = s.sent ++ [s.outByte] := by
  rcases encoderTick_cases h with ⟨_, rfl⟩ | ⟨_, rfl⟩ <;> exact ⟨rfl, rfl⟩

/-- An idle tick samples the line and sends nothing (R19, R91). -/
theorem idleTick_lineQ_sent (h : idleTick s = .next t) : t.lineQ = s.input.line ∧ t.sent = s.sent := by
  rcases idleTick_cases h with ⟨_, rfl⟩ | ⟨_, rfl⟩ <;> exact ⟨rfl, rfl⟩

/-- A tick without reset samples the line in every mode, and sends a byte in ENCODE only (R11, R19). -/
theorem modeTick_lineQ_sent (h : modeTick s = .next t) :
    t.lineQ = s.input.line ∧ t.sent = s.sent ++ (if s.mode = .encode then [s.outByte] else []) := by
  rcases modeTick_cases h with ⟨hm, ht⟩ | ⟨hm, ht⟩ | ⟨hm, ht⟩ | ⟨hm, rfl⟩
  · simpa [hm] using samplerTick_lineQ_sent ht
  · simpa [hm] using encoderTick_lineQ_sent ht
  · simpa [hm] using idleTick_lineQ_sent ht
  · simp [hm]

/-- When the output port carries a byte (R11). -/
theorem State.txValid_iff (s : State) : s.txValid = true ↔ s.mode = .encode ∧ s.input.rst = false := by
  simp [State.txValid]

/-- What the output port carries in a tick with a byte (R11). -/
theorem State.txData_of_txValid (h : s.txValid = true) : s.txData = s.outByte := by
  rw [State.txData, if_pos h]

end Frames

/-- Settles O28: the reset tick clears line_q, every tick over loads it, and no operation after that writes it. -/
theorem lineRegisterFollowsLine : Obligations.LineRegisterFollowsLine := by
  intro s t h
  obtain ⟨_, ⟨hr, rfl⟩ | ⟨hr, ht⟩⟩ := step_cases h
  · simp [hr]
  · simpa [hr] using (modeTick_lineQ_sent ht).1

/-- Settles O27: the one tick that sends is the encoder's, and its byte is the port's. -/
theorem outputStreamIsThePortsBytes : Obligations.OutputStreamIsThePortsBytes := by
  intro s t h
  refine ⟨s.txValid_iff, ?_⟩
  obtain ⟨_, ⟨hr, rfl⟩ | ⟨hr, ht⟩⟩ := step_cases h
  · have hv : ¬ s.txValid = true := by simp [State.txValid_iff, hr]
    simp [hv]
  · obtain ⟨_, hsent⟩ := modeTick_lineQ_sent ht
    by_cases hm : s.mode = .encode
    · have hv : s.txValid = true := s.txValid_iff.mpr ⟨hm, hr⟩
      rw [hsent, if_pos hm, if_pos hv, State.txData_of_txValid hv]
    · have hv : ¬ s.txValid = true := fun hv => hm (s.txValid_iff.mp hv).1
      rw [hsent, if_neg hm, if_neg hv]

section FaultCode
variable {s t : State}

/-- t entered FAULT with its code, or kept fault_code and stayed in or out of FAULT as s was. -/
def State.FaultFollows (s t : State) : Prop :=
  (t.mode = .fault ∧ t.faultCode = 1) ∨ (t.faultCode = s.faultCode ∧ (t.mode = .fault ↔ s.mode = .fault))

/-- A tick that keeps fault_code from outside FAULT to outside FAULT. -/
theorem State.FaultFollows.of_live (hs : s.mode ≠ .fault) (ht : t.mode ≠ .fault) (hc : t.faultCode = s.faultCode) :
    s.FaultFollows t :=
  .inr ⟨hc, iff_of_false ht hs⟩

/-- A tick that keeps both mode and fault_code. -/
theorem State.FaultFollows.of_same (hm : t.mode = s.mode) (hc : t.faultCode = s.faultCode) : s.FaultFollows t :=
  .inr ⟨hc, hm ▸ Iff.rfl⟩

/-- The hand-off leads to ENCODE, SAMPLE or IDLE (R88). -/
theorem State.handOff_mode_ne_fault (s : State) (b : Byte) : (s.handOff b).mode ≠ .fault := by
  rcases State.handOff_cases s b with ⟨_, e⟩ | ⟨_, _, e⟩ | ⟨_, _, e⟩ <;> simp [e]

/-- A capture event raises the overrun fault with its code or stays live (R71, R96). -/
theorem State.captureSample_faultFollows (hm : s.mode = .sample) : s.FaultFollows s.captureSample := by
  rcases State.captureSample_cases s with ⟨_, e⟩ | ⟨_, _, e⟩ | ⟨_, _, e⟩
  · rw [e]
    exact .inl ⟨rfl, rfl⟩
  · obtain ⟨_, _, _, _, _, _, hcode⟩ := State.handOff_frame s.storeSample (s.buf.read 0)
    rw [e]
    exact .of_live (by simp [hm]) (State.handOff_mode_ne_fault _ _) hcode
  · rw [e]
    exact .of_same rfl rfl

/-- Of the sampler's ticks only a capture event writes mode or fault_code (R94). -/
theorem samplerTick_faultFollows (hm : s.mode = .sample) (h : samplerTick s = .next t) : s.FaultFollows t := by
  rcases samplerTick_cases h with ⟨_, _, rfl⟩ | ⟨_, _, rfl⟩ | ⟨_, _, rfl⟩ | ⟨_, _, rfl⟩ | ⟨_, _, hp, hs⟩ | ⟨_, _, _, rfl⟩
  · exact .of_same rfl rfl
  · exact .of_same rfl rfl
  · exact .of_same rfl rfl
  · exact .of_same rfl rfl
  · rcases sampleTick_header_cases hp hs with rfl | ⟨c, _, _, rfl⟩ <;> exact .of_same rfl rfl
  · exact State.captureSample_faultFollows hm

/-- No tick without reset but the overrun changes fault_code, or enters or leaves FAULT (R23, R97). -/
theorem modeTick_faultFollows (h : modeTick s = .next t) : s.FaultFollows t := by
  rcases modeTick_cases h with ⟨hm, ht⟩ | ⟨hm, ht⟩ | ⟨hm, ht⟩ | ⟨_, rfl⟩
  · exact samplerTick_faultFollows hm ht
  · rcases encoderTick_cases ht with ⟨_, rfl⟩ | ⟨_, rfl⟩
    · exact .of_live (by simp [hm]) (by simp) rfl
    · exact .of_same rfl rfl
  · rcases idleTick_cases ht with ⟨_, rfl⟩ | ⟨_, rfl⟩
    · exact .of_live (by simp [hm]) (by simp) rfl
    · exact .of_same rfl rfl
  · exact .of_same rfl rfl

end FaultCode

/-- Settles O35: a reset tick clears both; any other tick sets both or leaves both as they were. -/
theorem faultCodeMirrorsFaultMode : Obligations.FaultCodeMirrorsFaultMode := by
  intro s t hrange hmirror h
  obtain ⟨_, ⟨_, rfl⟩ | ⟨_, ht⟩⟩ := step_cases h
  · simp
  rcases modeTick_faultFollows ht with ⟨hmode, hcode⟩ | ⟨hcode, hmode⟩
  · simp [hmode, hcode]
  · rw [hcode, hmode]
    exact ⟨hrange, hmirror⟩

section EarlierOutput
variable (s : State) (earlier : List Byte)

/-- s with other bytes sent before its own output stream. -/
def State.withEarlier (s : State) (earlier : List Byte) : State := { s with sent := earlier ++ s.sent }

@[simp] theorem State.withEarlier_mode : (s.withEarlier earlier).mode = s.mode := rfl
@[simp] theorem State.withEarlier_phase : (s.withEarlier earlier).phase = s.phase := rfl

/-- An outcome with other bytes sent before, where it is a next state. -/
def outcomeWithEarlier (earlier : List Byte) (o : Host.Outcome State Fault Refusal) : Host.Outcome State Fault Refusal :=
  match o with
  | .next t => .next (t.withEarlier earlier)
  | .fault f => .fault f
  | .refused r => .refused r

@[simp] theorem outcomeWithEarlier_next (t : State) :
    outcomeWithEarlier earlier (.next t) = .next (t.withEarlier earlier) := rfl

/-- Bytes sent before go into both branches of a choice. -/
theorem State.withEarlier_ite (p : Prop) [Decidable p] (t u : State) :
    (if p then t else u).withEarlier earlier = if p then t.withEarlier earlier else u.withEarlier earlier :=
  apply_ite (fun v : State => v.withEarlier earlier) p t u

/-- Bytes sent before go into both branches of a choice of outcomes. -/
theorem outcomeWithEarlier_ite (p : Prop) [Decidable p] (a b : Host.Outcome State Fault Refusal) :
    outcomeWithEarlier earlier (if p then a else b) =
      if p then outcomeWithEarlier earlier a else outcomeWithEarlier earlier b :=
  apply_ite _ p a b

/-- A byte is sent behind whatever was sent before (R11). -/
theorem State.emit_withEarlier (b : Byte) : (s.withEarlier earlier).emit b = (s.emit b).withEarlier earlier := by
  simp [State.emit, State.withEarlier, List.append_assoc]

/-- The hand-off does not read the output stream (R88). -/
theorem State.handOff_withEarlier (b : Byte) :
    (s.withEarlier earlier).handOff b = (s.handOff b).withEarlier earlier := by
  unfold State.handOff
  simp only [State.withEarlier_ite]
  rfl

/-- A capture event does not read the output stream (R71). -/
theorem State.captureSample_withEarlier :
    (s.withEarlier earlier).captureSample = s.captureSample.withEarlier earlier := by
  have hhand := State.handOff_withEarlier s.storeSample earlier (s.buf.read 0)
  unfold State.captureSample
  simp only [State.withEarlier_ite, ← hhand]
  rfl

/-- Counting a header sample does not read the output stream (R62). -/
theorem State.countHeaderSample_withEarlier :
    (s.withEarlier earlier).countHeaderSample = s.countHeaderSample.withEarlier earlier := rfl

/-- A command's sample event does not read the output stream (R62, R73). -/
theorem exec_withEarlier (i : Instr) :
    exec i (s.withEarlier earlier) = outcomeWithEarlier earlier (exec i s) := by
  simp only [exec_eq, commandSample, outcomeWithEarlier_ite, outcomeWithEarlier_next, State.captureSample_withEarlier,
    ← State.countHeaderSample_withEarlier, State.withEarlier_ite]
  rfl

/-- A sample event does not read the output stream (R61). -/
theorem sampleTick_withEarlier : sampleTick (s.withEarlier earlier) = outcomeWithEarlier earlier (sampleTick s) := by
  have hfetch : (s.withEarlier earlier).inFlight = s.inFlight := rfl
  simp only [sampleTick, hfetch, outcomeWithEarlier_ite, outcomeWithEarlier_next, exec_withEarlier,
    State.captureSample_withEarlier]
  rfl

/-- A sampler tick does not read the output stream (R58, R59). -/
theorem samplerTick_withEarlier : samplerTick (s.withEarlier earlier) = outcomeWithEarlier earlier (samplerTick s) := by
  cases hp : s.phase with
  | wait =>
    simp only [samplerTick, State.withEarlier_phase, hp, waitTick, outcomeWithEarlier_ite]
    rfl
  | settle =>
    simp only [samplerTick, State.withEarlier_phase, hp, settleTick, outcomeWithEarlier_ite, sampleTick_withEarlier]
    rfl

/-- An encoder tick sends its byte behind the output stream and does not read it (R90). -/
theorem encoderTick_withEarlier : encoderTick (s.withEarlier earlier) = outcomeWithEarlier earlier (encoderTick s) := by
  have hemit : (s.withEarlier earlier).tickOver.emit (s.withEarlier earlier).outByte =
      (s.tickOver.emit s.outByte).withEarlier earlier :=
    State.emit_withEarlier s.tickOver earlier s.outByte
  unfold encoderTick
  rw [hemit, outcomeWithEarlier_ite]
  rfl

/-- An idle tick does not read the output stream (R91). -/
theorem idleTick_withEarlier : idleTick (s.withEarlier earlier) = outcomeWithEarlier earlier (idleTick s) := by
  unfold idleTick
  rw [outcomeWithEarlier_ite]
  rfl

/-- No tick without reset reads the output stream (R27). -/
theorem modeTick_withEarlier : modeTick (s.withEarlier earlier) = outcomeWithEarlier earlier (modeTick s) := by
  cases hm : s.mode with
  | sample => simpa [modeTick, hm] using samplerTick_withEarlier s earlier
  | encode => simpa [modeTick, hm] using encoderTick_withEarlier s earlier
  | idle => simpa [modeTick, hm] using idleTick_withEarlier s earlier
  | fault =>
    simp only [modeTick, State.withEarlier_mode, hm]
    rfl

end EarlierOutput

/-- Settles O45: the guard and the reset tick do not look at the output stream, and no mode's tick does. -/
theorem outputIsNeverReadBack : Obligations.OutputIsNeverReadBack := by
  intro s t earlier h
  change step (s.withEarlier earlier) = .next (t.withEarlier earlier)
  obtain ⟨hw, ⟨hr, rfl⟩ | ⟨hr, ht⟩⟩ := step_cases h
  · exact step_reset (s := s.withEarlier earlier) hw hr
  · rw [step_noReset (s := s.withEarlier earlier) hw hr, modeTick_withEarlier, ht, outcomeWithEarlier_next]

end Sys2Proof.Machine
end

section
/-! PROOFS. The capture buffer of spec/20_memory.md: which ticks write it and where (R37), that a write keeps its bounds and its
canonical form (R24, R36; log entry 4), and that the byte stored for a high level cannot be observed (R33). -/

namespace Sys2Proof.Machine

section Writes
variable {s t : State}

/-- What a sample event can do to the buffer (R37): leave it alone, put a Command Type into slot 0 during the header, or put a
stored level into slot wp during the read phase. -/
inductive State.SampleWrite (s t : State) : Prop where
  /-- A header sample that classifies nothing, the overrun, or hpos above 8. -/
  | nothing (hbuf : t.buf = s.buf)
  /-- A header sample that classifies c (R63). -/
  | header (c : Command) (hpos : s.hpos < 8) (hbuf : t.buf = s.buf.write 0 (code c))
  /-- An in-range capture event (R71). -/
  | capture (hpos : s.hpos = 8) (hwp : s.wp < s.cfg.bufSlots) (hbuf : t.buf = s.buf.write s.wp (lvl s.cfg s.input.line))

/-- A capture event writes slot wp, or nothing when it overruns (R71, R95). -/
theorem State.captureSample_sampleWrite (hp : s.hpos = 8) :
    s.captureSample.cfg = s.cfg ∧ s.SampleWrite s.captureSample := by
  rcases State.captureSample_cases s with ⟨_, e⟩ | ⟨hwp, _, e⟩ | ⟨hwp, _, e⟩
  · rw [e]
    exact ⟨rfl, .nothing rfl⟩
  · obtain ⟨_, _, _, hcfg, hbuf, _, _⟩ := State.handOff_frame s.storeSample (s.buf.read 0)
    rw [e]
    exact ⟨hcfg, .capture hp hwp hbuf⟩
  · rw [e]
    exact ⟨rfl, .capture hp hwp rfl⟩

/-- A command's sample event keeps the configuration and writes the buffer as R37 lists it. -/
theorem exec_sampleWrite {i : Instr} (h : exec i s = .next t) : t.cfg = s.cfg ∧ s.SampleWrite t := by
  rw [exec_eq] at h
  unfold commandSample at h
  split_ifs at h with hp hk hp <;> cases h
  · exact ⟨rfl, .header i.command hp rfl⟩
  · exact ⟨rfl, .nothing rfl⟩
  · exact State.captureSample_sampleWrite hp
  · exact ⟨rfl, .nothing rfl⟩

/-- A sample event keeps the configuration and writes the buffer as R37 lists it. -/
theorem sampleTick_sampleWrite (h : sampleTick s = .next t) : t.cfg = s.cfg ∧ s.SampleWrite t := by
  unfold sampleTick at h
  split_ifs at h with _ hp
  · exact exec_sampleWrite h
  · cases h
    exact State.captureSample_sampleWrite hp
  · cases h
    exact ⟨rfl, .nothing rfl⟩

/-- A tick of the sampler that writes the buffer is a sample event (R37). -/
theorem samplerTick_bufferWrite (h : samplerTick s = .next t) : t.cfg = s.cfg ∧
    (t.buf = s.buf ∨ (s.phase = .settle ∧ s.settleCnt = 1 ∧ s.SampleWrite t)) := by
  rcases samplerTick_cases h with ⟨_, _, rfl⟩ | ⟨_, _, rfl⟩ | ⟨_, _, rfl⟩ | ⟨_, _, rfl⟩ | ⟨hs, hc, _, ht⟩ | ⟨hs, hc, hp, rfl⟩
  · exact ⟨rfl, .inl rfl⟩
  · exact ⟨rfl, .inl rfl⟩
  · exact ⟨rfl, .inl rfl⟩
  · exact ⟨rfl, .inl rfl⟩
  · obtain ⟨hcfg, hwrite⟩ := sampleTick_sampleWrite ht
    exact ⟨hcfg, .inr ⟨hs, hc, hwrite⟩⟩
  · obtain ⟨hcfg, hwrite⟩ := State.captureSample_sampleWrite hp
    exact ⟨hcfg, .inr ⟨hs, hc, hwrite⟩⟩

/-- A step that writes the buffer is a sample event; no other tick does, and none changes the configuration (R26, R37). -/
theorem step_bufferWrite (h : step s = .next t) : t.cfg = s.cfg ∧ (t.buf = s.buf ∨ (s.AtSample ∧ s.SampleWrite t)) := by
  obtain ⟨_, ⟨_, rfl⟩ | ⟨hr, htick⟩⟩ := step_cases h
  · exact ⟨rfl, .inl rfl⟩
  rcases modeTick_cases htick with ⟨hm, ht⟩ | ⟨_, ht⟩ | ⟨_, ht⟩ | ⟨_, rfl⟩
  · obtain ⟨hcfg, hbuf | ⟨hs, hc, hwrite⟩⟩ := samplerTick_bufferWrite ht
    · exact ⟨hcfg, .inl hbuf⟩
    · exact ⟨hcfg, .inr ⟨⟨hm, hs, hc, hr⟩, hwrite⟩⟩
  · rcases encoderTick_cases ht with ⟨_, rfl⟩ | ⟨_, rfl⟩ <;> exact ⟨rfl, .inl rfl⟩
  · rcases idleTick_cases ht with ⟨_, rfl⟩ | ⟨_, rfl⟩ <;> exact ⟨rfl, .inl rfl⟩
  · exact ⟨rfl, .inl rfl⟩

/-- A slot that is neither 0 in the header nor wp in the read phase reads as before a sample event (R36, R37). -/
theorem State.SampleWrite.read_of_ne {a : Nat} (h : s.SampleWrite t) (hheader : s.hpos < 8 → a ≠ 0)
    (hcapture : s.hpos = 8 → a ≠ s.wp) : t.buf.read a = s.buf.read a := by
  cases h with
  | nothing hbuf => rw [hbuf]
  | header c hp hbuf => rw [hbuf, Memory.read_write_other (hheader hp)]
  | capture hp _ hbuf => rw [hbuf, Memory.read_write_other (hcapture hp)]

/-- The same of every step: in a tick that is no sample event all slots read as before. -/
theorem step_read_of_ne {a : Nat} (h : step s = .next t) (hheader : s.AtSample → s.hpos < 8 → a ≠ 0)
    (hcapture : s.AtSample → s.hpos = 8 → a ≠ s.wp) : t.buf.read a = s.buf.read a := by
  obtain ⟨_, hbuf | ⟨hat, hwrite⟩⟩ := step_bufferWrite h
  · rw [hbuf]
  · exact hwrite.read_of_ne (hheader hat) (hcapture hat)

/-- Through the read phase wp stands at or above CAPTURE_BASE, so slots 0 and 1 are never stored to (R17, R30 item 4). -/
theorem State.Inv.two_le_wp (h : s.Inv) (hm : s.mode = .sample) (hp : s.hpos = 8) : 2 ≤ s.wp := by
  obtain ⟨_, _, hle, hsum⟩ := h.captureCount hm hp
  have hbase := captureBase_eq h.cfgWf
  omega

/-- A sample event keeps the canonical form and the bounds: slot 0 is in the buffer, and a capture event checks wp (R24, R95). -/
theorem State.SampleWrite.wf_within (h : s.SampleWrite t) (hw : s.cfg.Wf) (hbuf : s.buf.wf)
    (hin : s.buf.within s.cfg.bufSlots) : t.buf.wf ∧ t.buf.within s.cfg.bufSlots := by
  cases h with
  | nothing e =>
    rw [e]
    exact ⟨hbuf, hin⟩
  | header c _ e =>
    have hslot : 0 < s.cfg.bufSlots := Nat.lt_of_lt_of_le (by decide) (bufSlots_ge hw)
    rw [e]
    exact ⟨Memory.write_wf hbuf _ _, Memory.write_within hin hslot _⟩
  | capture _ hwp e =>
    rw [e]
    exact ⟨Memory.write_wf hbuf _ _, Memory.write_within hin hwp _⟩

end Writes

/-- Settles O31: each clause excludes the slots that the one kind of write open to its tick can reach; slot 1 is neither slot 0
nor, under the invariant, slot wp. -/
theorem bufferIsWrittenOnlyBySampleEvents : Obligations.BufferIsWrittenOnlyBySampleEvents := by
  intro s t hinv h
  refine ⟨fun hat => ?_, fun _ hp a ha => ?_, fun _ hp a ha => ?_, ?_⟩
  · obtain ⟨_, hbuf | ⟨hsample, _⟩⟩ := step_bufferWrite h
    · exact hbuf
    · exact absurd hsample hat
  · exact step_read_of_ne h (fun _ _ => ha) (fun _ h8 => absurd h8 hp.ne)
  · exact step_read_of_ne h (fun _ hlt => absurd hp hlt.ne) (fun _ _ => ha)
  · refine step_read_of_ne h (fun _ _ => Nat.one_ne_zero) (fun hat hp => ?_)
    obtain ⟨hm, _⟩ := hat
    have hwp : 2 ≤ s.wp := hinv.two_le_wp hm hp
    omega

/-- Settles O36: a step leaves the buffer alone or is a sample event, and a command's tick is one. -/
theorem bufferStaysCanonicalAndInBounds : Obligations.BufferStaysCanonicalAndInBounds := by
  intro s hw hbuf hin
  constructor
  · intro t h
    obtain ⟨hcfg, e | ⟨_, hwrite⟩⟩ := step_bufferWrite h
    · rw [hcfg, e]
      exact ⟨hbuf, hin⟩
    · rw [hcfg]
      exact hwrite.wf_within hw hbuf hin
  · intro i t h
    obtain ⟨hcfg, hwrite⟩ := exec_sampleWrite h
    rw [hcfg]
    exact hwrite.wf_within hw hbuf hin

section SameZeros
variable {m n : Memory}

/-- Two buffers with the same slot 0 that are zero at the same slots. -/
def Memory.SameZeros (m n : Memory) : Prop := n.read 0 = m.read 0 ∧ ∀ i, nz (n.read i) = nz (m.read i)

/-- Writes to one slot keep the relation, of the same byte at slot 0 and of bytes alike in being zero elsewhere. -/
theorem Memory.SameZeros.write {i : Nat} {v w : Byte} (h : m.SameZeros n) (hv : nz w = nz v) (h0 : i = 0 → w = v) :
    (m.write i v).SameZeros (n.write i w) := by
  obtain ⟨htype, hzero⟩ := h
  constructor
  · rw [Memory.read_write, Memory.read_write]
    split_ifs with hi
    · exact h0 hi.symm
    · exact htype
  · intro a
    rw [Memory.read_write, Memory.read_write]
    split_ifs
    · exact hv
    · exact hzero a

/-- The encoders test a slot for zero only, and print slot 0: such buffers have one output list, whatever byte the
configuration stores for a high level (R33, R76, R82). -/
theorem Memory.SameZeros.outList_eq (h : m.SameZeros n) (c : Cfg) (x : Byte) :
    outList { c with levelHighCode := x } n = outList c m := by
  obtain ⟨htype, hzero⟩ := h
  have hload : ∀ i, nz (load { c with levelHighCode := x } n i) = nz (load c m i) := by
    intro i
    unfold load
    split_ifs
    · exact hzero i
    · rfl
  have hcompact : cmpSeq { c with levelHighCode := x } n = cmpSeq c m := by
    simp only [cmpSeq, token, htype, hload]
  have hitem : dbgItem { c with levelHighCode := x } n = dbgItem c m := by
    funext i
    simp only [dbgItem, dbgChar, hzero]
  have hdebug : dbgSeq { c with levelHighCode := x } n = dbgSeq c m := by
    simp only [dbgSeq, htype, hitem]
  simp only [outList, hcompact, hdebug]

/-- A stored level is zero exactly for a low line (R8, R33). -/
theorem nz_lvl {c : Cfg} (hw : c.Wf) (v : Level) : nz (lvl c v) = v := by
  obtain ⟨_, _, _, _, _, _, _, _, hhigh, _⟩ := hw
  cases v with
  | false => rfl
  | true => simpa [nz, lvl] using hhigh

end SameZeros

section HighCode
variable {s t : State}

/-- s with another buffer and another byte stored for a high level. -/
def State.withHighCode (s : State) (m : Memory) (x : Byte) : State :=
  { s with buf := m, cfg := { s.cfg with levelHighCode := x } }

theorem State.SameButHighCode.eq_withHighCode (h : s.SameButHighCode t) :
    t = s.withHighCode t.buf t.cfg.levelHighCode := h.rest

/-- The relation's two clauses about slots, as one about buffers. -/
theorem State.SameButHighCode.sameZeros (h : s.SameButHighCode t) : s.buf.SameZeros t.buf := ⟨h.type, h.zero⟩

/-- States alike apart from the buffer and LEVEL_HIGH_CODE, whose buffers are alike, are related. -/
theorem State.SameButHighCode.of_sameZeros
    (hrest : t = s.withHighCode t.buf t.cfg.levelHighCode) (hbuf : s.buf.SameZeros t.buf) : s.SameButHighCode t := by
  obtain ⟨htype, hzero⟩ := hbuf
  exact ⟨hrest, htype, hzero⟩

/-- What reads neither the buffer nor LEVEL_HIGH_CODE is the same in both states. -/
theorem State.SameButHighCode.agree {α : Type} (h : s.SameButHighCode t) (f : State → α)
    (hf : ∀ m x, f (s.withHighCode m x) = f s) : f t = f s :=
  (congrArg f h.eq_withHighCode).trans (hf _ _)

theorem State.SameButHighCode.mode_eq (h : s.SameButHighCode t) : t.mode = s.mode :=
  h.agree State.mode fun _ _ => rfl
theorem State.SameButHighCode.phase_eq (h : s.SameButHighCode t) : t.phase = s.phase :=
  h.agree State.phase fun _ _ => rfl
theorem State.SameButHighCode.hpos_eq (h : s.SameButHighCode t) : t.hpos = s.hpos :=
  h.agree State.hpos fun _ _ => rfl
theorem State.SameButHighCode.wp_eq (h : s.SameButHighCode t) : t.wp = s.wp :=
  h.agree State.wp fun _ _ => rfl
theorem State.SameButHighCode.settleCnt_eq (h : s.SameButHighCode t) : t.settleCnt = s.settleCnt :=
  h.agree State.settleCnt fun _ _ => rfl
theorem State.SameButHighCode.eidx_eq (h : s.SameButHighCode t) : t.eidx = s.eidx :=
  h.agree State.eidx fun _ _ => rfl
theorem State.SameButHighCode.tick_eq (h : s.SameButHighCode t) : t.tick = s.tick :=
  h.agree State.tick fun _ _ => rfl
theorem State.SameButHighCode.sent_eq (h : s.SameButHighCode t) : t.sent = s.sent :=
  h.agree State.sent fun _ _ => rfl
theorem State.SameButHighCode.input_eq (h : s.SameButHighCode t) : t.input = s.input :=
  h.agree State.input fun _ _ => rfl
theorem State.SameButHighCode.fall_eq (h : s.SameButHighCode t) : t.fall = s.fall :=
  h.agree State.fall fun _ _ => rfl
theorem State.SameButHighCode.inFlight_eq (h : s.SameButHighCode t) : t.inFlight = s.inFlight :=
  h.agree State.inFlight fun _ _ => rfl
theorem State.SameButHighCode.countDown_eq (h : s.SameButHighCode t) : t.countDown = s.countDown :=
  h.agree State.countDown fun _ _ => rfl
theorem State.SameButHighCode.txValid_eq (h : s.SameButHighCode t) : t.txValid = s.txValid :=
  h.agree State.txValid fun _ _ => rfl
theorem State.SameButHighCode.bufSlots_eq (h : s.SameButHighCode t) : t.cfg.bufSlots = s.cfg.bufSlots :=
  h.agree (fun u => u.cfg.bufSlots) fun _ _ => rfl
theorem State.SameButHighCode.idleDelayTicks_eq (h : s.SameButHighCode t) : t.cfg.idleDelayTicks = s.cfg.idleDelayTicks :=
  h.agree (fun u => u.cfg.idleDelayTicks) fun _ _ => rfl

/-- Both states encode the same list (R89). -/
theorem State.SameButHighCode.outList_eq (h : s.SameButHighCode t) : outList t.cfg t.buf = outList s.cfg s.buf := by
  rw [congrArg State.cfg h.eq_withHighCode]
  exact h.sameZeros.outList_eq s.cfg _

/-- Both states send the same byte (R90). -/
theorem State.SameButHighCode.outByte_eq (h : s.SameButHighCode t) : t.outByte = s.outByte := by
  rw [State.outByte, h.outList_eq, h.eidx_eq, h.tick_eq, State.outByte]

/-- An operation that passes the buffer and LEVEL_HIGH_CODE on, and reads neither, keeps the relation. -/
theorem State.SameButHighCode.map (h : s.SameButHighCode t) (f : State → State)
    (hf : ∀ m x, f (s.withHighCode m x) = (f s).withHighCode m x) : (f s).SameButHighCode (f t) := by
  have hself : f s = (f s).withHighCode s.buf s.cfg.levelHighCode := hf _ _
  have hs : (f s).buf = s.buf := (congrArg State.buf hself).trans rfl
  have ht : f t = (f s).withHighCode t.buf t.cfg.levelHighCode := (congrArg f h.eq_withHighCode).trans (hf _ _)
  rw [ht]
  exact .of_sameZeros rfl (hs.symm ▸ h.sameZeros)

theorem State.SameButHighCode.tickOver (h : s.SameButHighCode t) : s.tickOver.SameButHighCode t.tickOver :=
  h.map State.tickOver fun _ _ => rfl

theorem State.SameButHighCode.resetTick (h : s.SameButHighCode t) : s.resetTick.SameButHighCode t.resetTick :=
  h.map State.resetTick fun _ _ => rfl

theorem State.SameButHighCode.enterSample (h : s.SameButHighCode t) : s.enterSample.SameButHighCode t.enterSample :=
  h.map State.enterSample fun _ _ => rfl

theorem State.SameButHighCode.raiseOverrun (h : s.SameButHighCode t) : s.raiseOverrun.SameButHighCode t.raiseOverrun :=
  h.map State.raiseOverrun fun _ _ => rfl

theorem State.SameButHighCode.emit (h : s.SameButHighCode t) (b : Byte) : (s.emit b).SameButHighCode (t.emit b) :=
  h.map (fun u => u.emit b) fun _ _ => rfl

theorem State.SameButHighCode.countHeaderSample (h : s.SameButHighCode t) :
    s.countHeaderSample.SameButHighCode t.countHeaderSample :=
  h.map State.countHeaderSample fun _ _ => rfl

/-- Both states get the same Command Type (R63). -/
theorem State.SameButHighCode.classify (h : s.SameButHighCode t) (c : Command) :
    (s.classify c).SameButHighCode (t.classify c) :=
  .of_sameZeros (congrArg (fun u : State => { u.classify c with buf := t.buf.write 0 (code c) }) h.eq_withHighCode)
    (h.sameZeros.write rfl fun _ => rfl)

/-- Each state stores its own byte for the sampled level: alike in being zero, and not into slot 0 (R33). -/
theorem State.SameButHighCode.storeSample (h : s.SameButHighCode t) (hs : s.cfg.Wf) (ht : t.cfg.Wf) (hwp : s.wp ≠ 0) :
    s.storeSample.SameButHighCode t.storeSample := by
  refine .of_sameZeros (congrArg (fun u : State => { u.storeSample with buf := t.storeSample.buf }) h.eq_withHighCode) ?_
  rw [State.storeSample_buf, State.storeSample_buf, h.wp_eq]
  exact h.sameZeros.write (by rw [nz_lvl ht, nz_lvl hs, h.input_eq]) (fun h0 => absurd h0 hwp)

/-- The hand-off looks at the type it is given and at IDLE_DELAY_TICKS (R88). -/
theorem State.SameButHighCode.handOff (h : s.SameButHighCode t) (b : Byte) :
    (s.handOff b).SameButHighCode (t.handOff b) := by
  unfold State.handOff
  rw [h.idleDelayTicks_eq]
  split_ifs
  · exact h.map (fun u => { u with mode := .encode, eidx := 0 }) fun _ _ => rfl
  · exact h.enterSample
  · exact h.map (fun u => { u with mode := .idle, idleCnt := s.cfg.idleDelayTicks }) fun _ _ => rfl

/-- Two ticks that both answer a next state, and these differ only in the byte stored for a high level. -/
def NextSameButHighCode (a b : Host.Outcome State Fault Refusal) : Prop :=
  ∃ u v, a = .next u ∧ b = .next v ∧ u.SameButHighCode v

theorem State.SameButHighCode.next (h : s.SameButHighCode t) : NextSameButHighCode (.next s) (.next t) :=
  ⟨s, t, rfl, rfl, h⟩

/-- A capture event reads wp, the count and slot 0, which agree, and stores what differs (R71). -/
theorem State.SameButHighCode.captureSample (h : s.SameButHighCode t) (hs : s.cfg.Wf) (ht : t.cfg.Wf) (hwp : s.wp ≠ 0) :
    s.captureSample.SameButHighCode t.captureSample := by
  have hstore := h.storeSample hs ht hwp
  unfold State.captureSample
  rw [h.bufSlots_eq, h.wp_eq, h.countDown_eq, h.type]
  split_ifs
  · exact h.tickOver.raiseOverrun
  · exact hstore.handOff _
  · exact hstore.map (fun u => { u with phase := .wait }) fun _ _ => rfl

/-- A command's header event goes alike in both states (R62). -/
theorem State.SameButHighCode.exec_header (h : s.SameButHighCode t) (hp : s.hpos < 8) (i : Instr) :
    NextSameButHighCode (exec i s) (exec i t) := by
  rw [exec_eq, exec_eq, commandSample_header hp, commandSample_header (h.hpos_eq ▸ hp), h.hpos_eq]
  split_ifs
  · exact (h.tickOver.classify _).countHeaderSample.next
  · exact h.tickOver.countHeaderSample.next

/-- A sample event goes alike: both states have the same command in flight (R61). -/
theorem State.SameButHighCode.sampleTick (h : s.SameButHighCode t) (hs : s.Inv) (ht : t.cfg.Wf) (hm : s.mode = .sample) :
    NextSameButHighCode (sampleTick s) (sampleTick t) := by
  unfold Sys2Proof.Machine.sampleTick
  rw [h.hpos_eq, h.inFlight_eq]
  split_ifs with hlt h8
  · exact h.exec_header hlt _
  · obtain ⟨hwp, _, _⟩ := hs.capture_wp hm h8
    exact (h.captureSample hs.cfgWf ht hwp).next
  · exact h.tickOver.next

/-- A tick of the sampler goes alike (R58, R59). -/
theorem State.SameButHighCode.samplerTick (h : s.SameButHighCode t) (hs : s.Inv) (ht : t.cfg.Wf) (hm : s.mode = .sample) :
    NextSameButHighCode (samplerTick s) (samplerTick t) := by
  unfold Sys2Proof.Machine.samplerTick
  rw [h.phase_eq]
  cases s.phase with
  | wait =>
    simp only [waitTick, h.fall_eq]
    split_ifs
    · exact (h.tickOver.map (fun u => { u with settleCnt := u.cfg.settleTicks, phase := .settle }) fun _ _ => rfl).next
    · exact h.tickOver.next
  | settle =>
    simp only [settleTick, h.settleCnt_eq]
    split_ifs
    · exact (h.tickOver.map (fun u => { u with settleCnt := s.settleCnt - 1 }) fun _ _ => rfl).next
    · exact h.sampleTick hs ht hm
    · exact h.tickOver.next

/-- A tick of the encoder goes alike: both output lists are the same (R90). -/
theorem State.SameButHighCode.encoderTick (h : s.SameButHighCode t) :
    NextSameButHighCode (encoderTick s) (encoderTick t) := by
  have hemit := h.tickOver.emit s.outByte
  unfold Sys2Proof.Machine.encoderTick
  rw [h.outList_eq, h.eidx_eq, h.outByte_eq]
  split_ifs
  · exact hemit.enterSample.next
  · exact (hemit.map (fun u => { u with eidx := s.eidx + 1 }) fun _ _ => rfl).next

/-- A step goes alike in both states; the invariant leaves the modes SAMPLE and ENCODE (R86, R30). -/
theorem State.SameButHighCode.step (h : s.SameButHighCode t) (hs : s.Inv) (ht : t.cfg.Wf) :
    NextSameButHighCode (step s) (step t) := by
  cases hr : s.input.rst with
  | true =>
    rw [step_reset hs.cfgWf hr, step_reset ht (by rw [h.input_eq, hr])]
    exact h.resetTick.next
  | false =>
    rw [step_noReset hs.cfgWf hr, step_noReset ht (by rw [h.input_eq, hr])]
    rcases hs.modeLive with hm | hm
    · simpa [modeTick, h.mode_eq, hm] using h.samplerTick hs ht hm
    · simpa [modeTick, h.mode_eq, hm] using h.encoderTick

end HighCode

/-- Settles O44: every operation of a tick keeps the relation, because the encoders test slots for zero only and no store goes
to slot 0; the output stream and tx_valid are among what the relation has equal. -/
theorem highLevelCodeIsInvisible : Obligations.HighLevelCodeIsInvisible := by
  intro s t s' hs ht h hstep
  obtain ⟨u, v, hu, hv, hrel⟩ := h.step hs ht.cfgWf
  obtain rfl : u = s' := by
    rw [hu] at hstep
    exact Host.Outcome.next.inj hstep
  exact ⟨v, hv, hrel, hrel.sent_eq, h.txValid_eq⟩

end Sys2Proof.Machine
end

section
/-! PROOFS. The encoding of spec/30_encoding.md: the number h and its eight samples (R49), decoding and encoding undo each other
(R46, R50), and the tables of the commands (R46, R47, R49). -/

namespace Sys2Proof

section HeaderNumber

/-- The eight samples determine the number h. -/
theorem headerSamples_injective : Function.Injective headerSamples := by
  intro g h heq
  simp only [headerSamples, List.cons.injEq, and_true] at heq
  obtain ⟨h7, h6, h5, h4, h3, h2, h1, h0⟩ := heq
  refine BitVec.eq_of_getLsbD_eq fun j hj => ?_
  interval_cases j <;> assumption

/-- Each sample doubles the number of those before it and becomes its lowest bit, so the bits of h are the samples (R49). -/
theorem headerSamples_headerNumber (v1 v2 v3 v4 v5 v6 v7 v8 : Level) :
    headerSamples (headerNumber [v1, v2, v3, v4, v5, v6, v7, v8]) = [v1, v2, v3, v4, v5, v6, v7, v8] := by
  have hpush : ∀ (n : Nat) (v : Level), 2 * n + v.toNat = Nat.bit v n := fun n v => (Nat.bit_val v n).symm
  simp [headerSamples, headerNumber, hpush, BitVec.getLsbD_ofNat, Nat.testBit_bit_succ,
    -BitVec.getLsbD_eq_getElem]

theorem headerNumber_headerSamples (h : Header) : headerNumber (headerSamples h) = h :=
  headerSamples_injective (headerSamples_headerNumber ..)

/-- The number h is the sum that R49 writes: 255 at most, so the byte holds it. -/
theorem toNat_headerNumber (v1 v2 v3 v4 v5 v6 v7 v8 : Level) :
    (headerNumber [v1, v2, v3, v4, v5, v6, v7, v8]).toNat = v1.toNat * 128 + v2.toNat * 64 + v3.toNat * 32 +
      v4.toNat * 16 + v5.toNat * 8 + v6.toNat * 4 + v7.toNat * 2 + v8.toNat := by
  simp only [headerNumber, List.foldl, BitVec.toNat_ofNat]
  have h1 := v1.toNat_le
  have h2 := v2.toNat_le
  have h3 := v3.toNat_le
  have h4 := v4.toNat_le
  have h5 := v5.toNat_le
  have h6 := v6.toNat_le
  have h7 := v7.toNat_le
  have h8 := v8.toNat_le
  omega

/-- At least eight samples begin with those of a header. -/
theorem exists_headerSamples_append {vs : List Level} (hlen : 8 ≤ vs.length) :
    ∃ h rest, vs = headerSamples h ++ rest := by
  match vs, hlen with
  | v1 :: v2 :: v3 :: v4 :: v5 :: v6 :: v7 :: v8 :: rest, _ =>
    exact ⟨headerNumber [v1, v2, v3, v4, v5, v6, v7, v8], rest, by rw [headerSamples_headerNumber]; rfl⟩

end HeaderNumber

section RoundTrip

/-- A header is a prefix of five samples, then samples 6 to 8 (R45). -/
theorem exists_eq_append (h : Header) : ∃ (p : BitVec 5) (x : BitVec 3), h = p ++ x :=
  ⟨_, _, (BitVec.extractLsb'_append_extractLsb' (w := 5) (len := 3) (x := h)).symm⟩

/-- The decoder copies the prefix without examining it; samples 6 to 8 decide (R45, R64). -/
theorem decodeHeader_append (p : BitVec 5) (x : BitVec 3) : decodeHeader (p ++ x) =
    if x.getLsbD 2 then .reset p (x.extractLsb' 0 2) else if x.getLsbD 1 then .rw p (x.extractLsb' 0 1)
    else if x.getLsbD 0 then .poll p else .info p := by
  have hprefix : (p ++ x).extractLsb' 3 5 = p := BitVec.extractLsb'_append_eq_left
  have htail : ∀ n ≤ 3, (p ++ x).extractLsb' 0 n = x.extractLsb' 0 n := fun n hn =>
    BitVec.extractLsb'_append_eq_of_add_le (by omega)
  have hbit : ∀ j < 3, (p ++ x).getLsbD j = x.getLsbD j := fun j hj => by rw [BitVec.getLsbD_append, if_pos hj]
  rw [decodeHeader, hbit 2 (by decide), hbit 1 (by decide), hbit 0 (by decide), hprefix, htail 1 (by decide),
    htail 2 (by decide)]

theorem encodeHeader_rw (p : BitVec 5) (d : BitVec 1) : encodeHeader (.rw p d) = p ++ (0b01#2 ++ d) :=
  BitVec.append_assoc

theorem encodeHeader_reset (p : BitVec 5) (d : BitVec 2) : encodeHeader (.reset p d) = p ++ (0b1#1 ++ d) :=
  BitVec.append_assoc

theorem decodeHeader_encodeHeader (i : Instr) : decodeHeader (encodeHeader i) = i := by
  cases i with
  | info p => exact decodeHeader_append p 0b000#3
  | poll p => exact decodeHeader_append p 0b001#3
  | rw p d =>
    rw [encodeHeader_rw, decodeHeader_append p (0b01#2 ++ d), if_neg, if_pos, BitVec.extractLsb'_append_eq_right]
    all_goals revert d; decide
  | reset p d =>
    rw [encodeHeader_reset, decodeHeader_append p (0b1#1 ++ d), if_pos, BitVec.extractLsb'_append_eq_right]
    revert d; decide

/-- The decision bits that select a row are the row's fixed samples; the others are copied (R46, R49). -/
theorem encodeHeader_decodeHeader (h : Header) : encodeHeader (decodeHeader h) = h := by
  obtain ⟨p, x, rfl⟩ := exists_eq_append h
  rw [decodeHeader_append]
  split_ifs with hA hB hC
  · rw [encodeHeader_reset]
    congr 1; revert x; decide
  · rw [encodeHeader_rw]
    congr 1; revert x; decide
  · rw [encodeHeader]
    congr 1; revert x; decide
  · rw [encodeHeader]
    congr 1; revert x; decide

theorem decode_headerSamples_append (h : Header) (rest : List Level) :
    decode (headerSamples h ++ rest) = .ok (decodeHeader h, rest) :=
  congrArg (fun g => Except.ok (decodeHeader g, rest)) (headerNumber_headerSamples h)

theorem decode_encode_append (i : Instr) (rest : List Level) : decode (encode i ++ rest) = .ok (i, rest) := by
  rw [encode, decode_headerSamples_append, decodeHeader_encodeHeader]

/-- Fewer than eight samples are no header (R65). -/
theorem decode_short {vs : List Level} (hlen : vs.length < 8) : decode vs = .error (.shortHeader vs.length) := by
  unfold decode
  split
  · simp only [List.length_cons] at hlen
    omega
  · rfl

theorem Instr.wellFormed_eq_true (i : Instr) : i.wellFormed = true := by cases i <;> rfl

theorem decodeTableWord_encodeHeader (i : Instr) : decodeTableWord 8 (encodeHeader i).toNat = some i := by
  have hdec : decode (headerSamples (encodeHeader i)) = .ok (i, []) := by
    simpa [encode] using decode_encode_append i []
  simp [decodeTableWord, (encodeHeader i).isLt, hdec]

end RoundTrip

/-- Settles O1: the samples of a header give back its number, and the decision bits of that number select the row that encoded
it. -/
theorem decodeGivesBackEncoded : Obligations.DecodeGivesBackEncoded := fun i rest _ =>
  ⟨decode_encode_append i rest, decodeHeader_encodeHeader i⟩

/-- Settles O2: eight samples are the samples of their number, which encoding the decoded instruction gives back. -/
theorem everyEightSamplesAreAHeader : Obligations.EveryEightSamplesAreAHeader := by
  refine fun vs => ⟨fun hlen => ?_, decode_short⟩
  obtain ⟨h, rest, rfl⟩ := exists_headerSamples_append hlen
  exact ⟨decodeHeader h, rest, decode_headerSamples_append h rest, Instr.wellFormed_eq_true _,
    by rw [encode, encodeHeader_decodeHeader]⟩

/-- Settles O4: each word is the header of the instruction that it decodes to. -/
theorem knownHeaderWordsDecode : Obligations.KnownHeaderWordsDecode :=
  ⟨decodeTableWord_encodeHeader (.info 0b00000#5), decodeTableWord_encodeHeader (.info 0b11111#5),
    decodeTableWord_encodeHeader (.poll 0b00000#5), decodeTableWord_encodeHeader (.poll 0b10101#5),
    decodeTableWord_encodeHeader (.rw 0b00000#5 0b0#1), decodeTableWord_encodeHeader (.rw 0b11111#5 0b1#1),
    decodeTableWord_encodeHeader (.reset 0b00000#5 0b00#2), decodeTableWord_encodeHeader (.reset 0b00001#5 0b10#2)⟩

section Rows

/-- An instruction's header lies in its own row of R49 and in no other. -/
theorem encodeHeader_row (i : Instr) : Laws.HeaderPattern.Statement i := by
  cases i with
  | info p => exact Laws.HeaderPattern.info p
  | poll p => exact Laws.HeaderPattern.poll p
  | rw p d => exact Laws.HeaderPattern.rw p d
  | reset p d => exact Laws.HeaderPattern.reset p d

/-- A header lies in the row of the command it decodes to and in no other (R49). -/
theorem header_row (h : Header) (c : Command) :
    h &&& c.maskMatch.1 = c.maskMatch.2 ↔ c = (decodeHeader h).command := by
  have hrow := encodeHeader_row (decodeHeader h) c
  rwa [encodeHeader_decodeHeader] at hrow

/-- The command is a function of the decision bits A, B and C alone (R64). -/
theorem decodeHeader_command (h : Header) :
    (decodeHeader h).command = classifySamples (h.getLsbD 2) (h.getLsbD 1) (h.getLsbD 0) := by
  unfold decodeHeader classifySamples
  split_ifs <;> rfl

/-- Adding 8 to the number h changes its prefix only, so it keeps the command. -/
theorem decodeHeader_command_periodic (c : Command) :
    Function.Periodic (fun n => (decodeHeader (BitVec.ofNat 8 n)).command = c) 8 := by
  intro n
  have hbit : ∀ j < 3, (n + 8).testBit j = n.testBit j := fun j hj => by
    rw [add_comm]; exact Nat.testBit_two_pow_add_gt hj n
  simp [decodeHeader_command, BitVec.getLsbD_ofNat, hbit, -BitVec.getLsbD_eq_getElem]

theorem count_mul_of_periodic {p : Nat → Prop} [DecidablePred p] {a : Nat} (hp : p.Periodic a) (k : Nat) :
    Nat.count p (k * a) = k * Nat.count p a := by
  induction k with
  | zero => simp
  | succ k ih =>
    have hblock : (fun j => p (k * a + j)) = p := funext fun j => by
      rw [add_comm]; exact hp.nat_mul k j
    simp [Nat.succ_mul, Nat.count_add, ih, hblock]

/-- Of the 256 numbers each row has 32 times its share of the eight tails (R49). -/
theorem length_filter_command (c : Command) :
    ((List.range 256).filter (fun n => (decodeHeader (BitVec.ofNat 8 n)).command = c)).length =
      32 * Nat.count (fun n => (decodeHeader (BitVec.ofNat 8 n)).command = c) 8 := by
  rw [← List.countP_eq_length_filter]
  exact count_mul_of_periodic (decodeHeader_command_periodic c) 32

end Rows

/-- Settles O3: a header encodes what it decodes to, which puts it in that row, and 4, 2, 1 and 1 of the eight tails go with each
of the 32 prefixes. -/
theorem headerTableRowsPartition : Obligations.HeaderTableRowsPartition := by
  refine ⟨toNat_headerNumber, header_row, fun c => ?_, fun c => ?_⟩
  · cases c <;> rfl
  · rw [length_filter_command]
    cases c <;> rfl

end Sys2Proof

namespace Sys2Proof.Machine

/-- Settles O5: the recognised bytes are the four codes of the table. -/
theorem commandTableIsR46 : Obligations.CommandTableIsR46 := by
  refine ⟨⟨rfl, rfl, rfl, rfl⟩, ⟨bits_code_info, bits_code_poll, bits_code_rw, bits_code_reset⟩,
    fun b => ⟨fun hb => ?_, ?_⟩⟩
  · rcases (recognized_iff b).mp hb with rfl | rfl | rfl | rfl
    exacts [⟨.info, rfl⟩, ⟨.poll, rfl⟩, ⟨.rw, rfl⟩, ⟨.reset, rfl⟩]
  · rintro ⟨c, rfl⟩
    exact recognized_code c

end Sys2Proof.Machine
end

section
/-! PROOFS. The header phase of spec/40_sampler_header.md: waiting for an edge and the settle interval (R58 to R60), which
command a header sample event runs (R61, R62; log entry 1), and what the header events of each command do (R62 to R69). -/

namespace Sys2Proof

section Samples

/-- Samples 1 to 5 of a header, in time order (R45). -/
def prefixSamples (p : BitVec 5) : List Level :=
  [p.getLsbD 4, p.getLsbD 3, p.getLsbD 2, p.getLsbD 1, p.getLsbD 0]

/-- On the line samples 1 to 5 come first, then samples 6 to 8 (R45, R49). -/
theorem headerSamples_append (p : BitVec 5) (x : BitVec 3) :
    headerSamples (p ++ x) = prefixSamples p ++ [x.getLsbD 2, x.getLsbD 1, x.getLsbD 0] := by
  have hbit : ∀ j, (p ++ x : Header).getLsbD j = if j < 3 then x.getLsbD j else p.getLsbD (j - 3) :=
    fun _ => BitVec.getLsbD_append
  simp [headerSamples, prefixSamples, hbit, -BitVec.getLsbD_eq_getElem]

/-- Samples 6 to 8 of INFO: A = B = C = 0 (R69). -/
theorem encode_info (p : BitVec 5) : encode (.info p) = prefixSamples p ++ [false, false, false] :=
  headerSamples_append p 0b000#3

/-- Samples 6 to 8 of POLL: C = 1 (R68). -/
theorem encode_poll (p : BitVec 5) : encode (.poll p) = prefixSamples p ++ [false, false, true] :=
  headerSamples_append p 0b001#3

/-- Samples 6 to 8 of RW: B = 1, then a discarded one (R67). -/
theorem encode_rw (p : BitVec 5) (d : BitVec 1) :
    encode (.rw p d) = prefixSamples p ++ [false, true, d.getLsbD 0] := by
  rw [encode, encodeHeader_rw, headerSamples_append]
  congr 1; revert d; decide

/-- Samples 6 to 8 of RESET: A = 1, then two discarded ones (R66). -/
theorem encode_reset (p : BitVec 5) (d : BitVec 2) :
    encode (.reset p d) = prefixSamples p ++ [true, d.getLsbD 1, d.getLsbD 0] := by
  rw [encode, encodeHeader_reset, headerSamples_append]
  congr 1; revert d; decide

/-- Sample 6 is A: it is 1 in the headers of RESET only (R64). -/
theorem encode_sample_six (i : Instr) : (encode i)[5]? = some (decide (i.decidedAt = 6)) := by
  cases i with
  | info p => rw [encode_info]; rfl
  | poll p => rw [encode_poll]; rfl
  | rw p d => rw [encode_rw]; rfl
  | reset p d => rw [encode_reset]; rfl

/-- Sample 7 is B: where A is 0, it is 1 in the headers of RW only (R64). -/
theorem encode_sample_seven (i : Instr) (h : 7 ≤ i.decidedAt) : (encode i)[6]? = some (decide (i.decidedAt = 7)) := by
  cases i with
  | info p => rw [encode_info]; rfl
  | poll p => rw [encode_poll]; rfl
  | rw p d => rw [encode_rw]; rfl
  | reset p d => simp [Instr.decidedAt] at h

/-- Sample 8 is C: where A and B are 0, it tells POLL from INFO (R64). -/
theorem encode_sample_eight (i : Instr) (h : i.decidedAt = 8) :
    (encode i)[7]? = some (decide (i.command = .poll)) := by
  cases i with
  | info p => rw [encode_info]; rfl
  | poll p => rw [encode_poll]; rfl
  | rw p d => simp [Instr.decidedAt] at h
  | reset p d => simp [Instr.decidedAt] at h

/-- The classifying sample tells the command, except that sample 8 classifies POLL and INFO (R62, R63). -/
theorem Instr.decidedAt_cases (i : Instr) :
    (i.decidedAt = 6 ∧ i.command = .reset) ∨ (i.decidedAt = 7 ∧ i.command = .rw) ∨
    (i.decidedAt = 8 ∧ (i.command = .poll ∨ i.command = .info)) := by
  cases i <;> simp [Instr.decidedAt, Instr.command]

/-- Every command is classified at sample 6, 7 or 8 (R62). -/
theorem Instr.decidedAt_bounds (i : Instr) : 6 ≤ i.decidedAt ∧ i.decidedAt ≤ 8 := by
  obtain ⟨hd, _⟩ | ⟨hd, _⟩ | ⟨hd, _⟩ := i.decidedAt_cases <;> omega

/-- The instruction of a table word is the one its header selects (R49). -/
theorem decodeHeader_of_decodeTableWord {w : Nat} {i : Instr} (h : decodeTableWord 8 w = some i) :
    decodeHeader (BitVec.ofNat 8 w) = i := by
  have hdec : decode (headerSamples (BitVec.ofNat 8 w)) = .ok (decodeHeader (BitVec.ofNat 8 w), []) := by
    simpa using decode_headerSamples_append (BitVec.ofNat 8 w) []
  rw [decodeTableWord, hdec] at h
  split_ifs at h
  simpa using h

/-- The samples of a header are those its instruction is encoded to (R46, R49). -/
theorem encode_decodeHeader (h : Header) : encode (decodeHeader h) = headerSamples h := by
  rw [encode, encodeHeader_decodeHeader]

end Samples

end Sys2Proof

namespace Sys2Proof.Machine

section Waiting
variable {s : State}

/-- A falling edge is a line that was high and is low (R57). -/
theorem State.fall_iff (s : State) : s.fall = true ↔ s.lineQ = true ∧ s.input.line = false := by
  simp [State.fall]

/-- A waiting sampler accepts a falling edge (R58). -/
theorem step_wait_fall (hw : s.cfg.Wf) (hr : s.input.rst = false) (hm : s.mode = .sample) (hp : s.phase = .wait)
    (hf : s.fall = true) : step s = .next { s.onlyLine with settleCnt := s.cfg.settleTicks, phase := .settle } := by
  rw [step_wait hw hr hm hp, waitTick, if_pos hf]
  rfl

/-- Without a falling edge a waiting sampler goes on waiting (R58). -/
theorem step_wait_noFall (hw : s.cfg.Wf) (hr : s.input.rst = false) (hm : s.mode = .sample) (hp : s.phase = .wait)
    (hf : ¬ s.fall = true) : step s = .next s.onlyLine := by
  rw [step_wait hw hr hm hp, waitTick, if_neg hf]
  rfl

/-- The settle interval counts down to 1 (R59). -/
theorem step_settle_countDown (hw : s.cfg.Wf) (hr : s.input.rst = false) (hm : s.mode = .sample) (hp : s.phase = .settle)
    (hc : 1 < s.settleCnt) : step s = .next { s.onlyLine with settleCnt := s.settleCnt - 1 } := by
  rw [step_settle hw hr hm hp, settleTick, if_pos hc]
  rfl

/-- The settle interval as a whole: from a counter one above the number of ticks it goes down to 1, and of what the line does
meanwhile only its last level is left, in line_q (R59, R60). -/
theorem run_settle {is rest : List TickIn} (hw : s.cfg.Wf) (hm : s.mode = .sample) (hp : s.phase = .settle)
    (hi : s.inputs = is ++ rest) (hr : NoReset is) (hc : s.settleCnt = is.length + 1) :
    run is.length s = .next { s with
      inputs := rest, tick := s.tick + is.length, settleCnt := 1, lineQ := lastLine s.lineQ is } := by
  induction is generalizing s with
  | nil =>
    obtain rfl : s.inputs = rest := hi
    obtain hc : s.settleCnt = 1 := hc
    rw [lastLine_nil, ← hc]
    rfl
  | cons x is ih =>
    obtain ⟨hx, his⟩ := List.forall_mem_cons.mp hr
    have hin : s.input = x := s.input_cons hi
    have hlen : s.settleCnt = is.length + 1 + 1 := hc
    have hrest := ih (s := { s.onlyLine with settleCnt := s.settleCnt - 1 }) hw hm hp (by simp [hi]) his (by simp [hlen])
    rw [List.length_cons, run_succ (step_settle_countDown hw (hin ▸ hx) hm hp (by omega)), hrest]
    dsimp only
    rw [hin, lastLine_cons, Nat.add_assoc, Nat.add_comm 1]

end Waiting

/-- Settles O17: the edge that a waiting tick tests for is high before and low now. -/
theorem waitTickAcceptsFallingEdge : Obligations.WaitTickAcceptsFallingEdge := by
  intro s hw hr hm hp
  rw [← s.fall_iff]
  exact ⟨step_wait_fall hw hr hm hp, step_wait_noFall hw hr hm hp⟩

/-- Settles O18: above 1 the settle tick only counts. -/
theorem settleTickCountsDown : Obligations.SettleTickCountsDown :=
  fun _ hw hr hm hp hc => step_settle_countDown hw hr hm hp hc

/-- Settles O19: the tick of the edge loads SETTLE_TICKS, and the SETTLE_TICKS - 1 ticks after it count down to 1. -/
theorem sampleComesSettleTicksAfterEdge : Obligations.SampleComesSettleTicksAfterEdge := by
  intro s e y is rest hw hm hp hi hlen hr hq he
  obtain ⟨hre, hr⟩ := List.forall_mem_cons.mp hr
  obtain ⟨hris, hry⟩ := List.forall_mem_append.mp hr
  have hin : s.input = e := s.input_cons hi
  have hfall : s.fall = true := s.fall_iff.mpr ⟨hq, hin ▸ he⟩
  have hedge := step_wait_fall hw (hin ▸ hre) hm hp hfall
  have hsettle := run_settle (is := is) (rest := y :: rest)
    (s := { s.onlyLine with settleCnt := s.cfg.settleTicks, phase := .settle }) hw hm rfl (by simp [hi]) hris hlen.symm
  refine ⟨_, (congrArg (run · s) hlen.symm).trans ((run_succ hedge _).trans hsettle), ?_⟩
  exact ⟨⟨hm, rfl, rfl, hry y (by simp)⟩, rfl, rfl, rfl, rfl, rfl, rfl, rfl, rfl, rfl⟩

section HeaderEvents
variable {s t u : State} {i : Instr}

/-- What a header event counts and sets, read off the state before the tick (R62). -/
theorem State.countHeaderSample_eq (hpos : t.hpos = s.hpos) (hwp : t.wp = s.wp) (hcfg : t.cfg = s.cfg) :
    t.countHeaderSample = { t with
      hpos := s.hpos + 1, phase := .wait, wp := if s.hpos + 1 = 8 then s.cfg.captureBase else s.wp } := by
  rw [State.countHeaderSample, hpos, hwp, hcfg]

/-- The line carries the sample that the command in flight has at this position. -/
theorem State.Carries.line_eq {v : Level} (h : s.Carries i) (hv : (encode i)[s.hpos]? = some v) : s.input.line = v := by
  obtain ⟨_, hline, _⟩ := h
  exact Option.some.inj (hline.symm.trans hv)

/-- The sample event of a carried command is the event of the command in flight: at samples 6, 7 and 8 the line and known
answer the tests of R62 as the classification of the command does. -/
theorem sampleTick_of_carries (h : s.Carries i) : sampleTick s = exec i s := by
  have ⟨hlt, _, hknown⟩ := h
  rw [sampleTick_header hlt, exec_eq, commandSample_header hlt]
  obtain hp | hp | hp | hp : s.hpos < 5 ∨ s.hpos = 5 ∨ s.hpos = 6 ∨ s.hpos = 7 := by omega
  · have hk := i.decidedAt_bounds
    rw [if_neg (by omega), if_neg (by omega), if_neg (by omega), if_neg (by omega), if_neg (by omega)]
  · have hA : s.input.line = decide (i.decidedAt = 6) := h.line_eq (hp ▸ encode_sample_six i)
    obtain ⟨hd, hc⟩ | ⟨hd, _⟩ | ⟨hd, _⟩ := i.decidedAt_cases
    · simp [hp, hA, hd, hc]
    · simp [hp, hA, hd]
    · simp [hp, hA, hd]
  · have hB (h7 : 7 ≤ i.decidedAt) : s.input.line = decide (i.decidedAt = 7) :=
      h.line_eq (hp ▸ encode_sample_seven i h7)
    obtain ⟨hd, _⟩ | ⟨hd, hc⟩ | ⟨hd, _⟩ := i.decidedAt_cases
    · simp [hp, hknown, hd]
    · simp [hp, hknown, hB, hd, hc]
    · simp [hp, hB, hd]
  · have hC (h8 : i.decidedAt = 8) : s.input.line = decide (i.command = .poll) :=
      h.line_eq (hp ▸ encode_sample_eight i h8)
    obtain ⟨hd, _⟩ | ⟨hd, _⟩ | ⟨hd, hc | hc⟩ := i.decidedAt_cases
    · simp [hp, hknown, hd]
    · simp [hp, hknown, hd]
    · simp [hp, hknown, hC, hd, hc]
    · simp [hp, hknown, hC, hd, hc]

/-- A step at a header sample event is the event of the command that the state carries (R61). -/
theorem step_of_carries (hw : s.cfg.Wf) (hs : s.AtSample) (h : s.Carries i) : step s = exec i s := by
  obtain ⟨hm, hp, hc, hr⟩ := hs
  rw [step_sample hw hr hm hp hc, sampleTick_of_carries h]

/-- The coming line of a placed header begins with the sample that classifies its command. -/
theorem State.placeHeader_inputs (s : State) (h : Header) : ∃ v rest,
    (headerSamples h)[(decodeHeader h).decidedAt - 1]? = some v ∧ (s.placeHeader h).inputs = ⟨false, v⟩ :: rest := by
  have hk : (decodeHeader h).decidedAt - 1 < (headerSamples h).length := by
    have hlen : (headerSamples h).length = 8 := rfl
    have hd := (decodeHeader h).decidedAt_bounds
    omega
  refine ⟨_, lineScript s.cfg.settleTicks ((headerSamples h).drop ((decodeHeader h).decidedAt - 1 + 1)),
    List.getElem?_eq_getElem hk, ?_⟩
  dsimp only [State.placeHeader]
  rw [List.drop_eq_getElem_cons hk]
  rfl

/-- A placed header is at the sample event that classifies it. -/
theorem State.placeHeader_atSample (s : State) (h : Header) : (s.placeHeader h).AtSample := by
  obtain ⟨v, rest, _, hi⟩ := s.placeHeader_inputs h
  exact ⟨rfl, rfl, rfl, by rw [State.input_cons _ hi]⟩

/-- A placed header carries its instruction, which no earlier sample has classified. -/
theorem State.placeHeader_carries (s : State) (h : Header) : (s.placeHeader h).Carries (decodeHeader h) := by
  obtain ⟨v, rest, hv, hi⟩ := s.placeHeader_inputs h
  have hpos : (s.placeHeader h).hpos = (decodeHeader h).decidedAt - 1 := rfl
  have hknown : (s.placeHeader h).known = false := rfl
  have hk := (decodeHeader h).decidedAt_bounds
  refine ⟨by omega, ?_, ?_⟩
  · rw [encode_decodeHeader, hpos, hv, State.input_cons _ hi]
  · rw [hknown, hpos, eq_comm, decide_eq_false_iff_not]
    omega

/-- The header event of a command changes what R62 and R63 say and nothing else, at every position. -/
theorem exec_takesHeaderSample (i : Instr) (hp : s.hpos < 8) : ∃ t, exec i s = .next t ∧
    s.TakesHeaderSample t i.decidedAt (code i.command) (bits (code i.command)) := by
  rw [exec_eq, commandSample_header hp]
  refine ⟨_, rfl, ?_⟩
  split_ifs with hk
  · exact ⟨⟨rfl, rfl, rfl, rfl, rfl, rfl, rfl, rfl, rfl, rfl⟩, rfl, rfl, rfl,
      fun _ => ⟨Memory.read_write_same .., rfl, rfl⟩, fun hne => absurd hk hne, fun a ha => Memory.read_write_other ha ..⟩
  · exact ⟨⟨rfl, rfl, rfl, rfl, rfl, rfl, rfl, rfl, rfl, rfl⟩, rfl, rfl, rfl,
      fun he => absurd he hk, fun _ => ⟨rfl, rfl, rfl⟩, fun _ _ => rfl⟩

end HeaderEvents

/-- Settles O6: the samples of a command answer the tests of R62 as its classification does. -/
theorem stepRunsCommandInFlight : Obligations.StepRunsCommandInFlight :=
  fun _ _ hw hs h => step_of_carries hw hs h

/-- Settles O7: the placed header is at the sample event that classifies the instruction of the word. -/
theorem stepRunsPlacedHeader : Obligations.StepRunsPlacedHeader := by
  intro s w i hw hdec
  obtain rfl := decodeHeader_of_decodeTableWord hdec
  have hs := s.placeHeader_atSample (BitVec.ofNat 8 w)
  have hcarries := s.placeHeader_carries (BitVec.ofNat 8 w)
  exact ⟨hs, hcarries, step_of_carries hw hs hcarries⟩

/-- Settles O8: the four commands have the same header event, each with its own sample number, code and count. -/
theorem headerSampleOfEachCommand : Obligations.HeaderSampleOfEachCommand := fun _ hp =>
  ⟨fun p => exec_takesHeaderSample (.info p) hp, fun p => exec_takesHeaderSample (.poll p) hp,
    fun p d => exec_takesHeaderSample (.rw p d) hp, fun p d => exec_takesHeaderSample (.reset p d) hp⟩

/-- Settles O10: each branch of R62 counts the sample over a state that has not yet touched hpos, wp or the configuration. -/
theorem headerSampleIsR62 : Obligations.HeaderSampleIsR62 := by
  intro s hw ⟨hm, hp, hc, hr⟩ h8
  dsimp only
  rw [step_sample hw hr hm hp hc, sampleTick_header h8]
  refine congrArg Host.Outcome.next (State.countHeaderSample_eq ?_ ?_ ?_)
  · split_ifs <;> rfl
  · split_ifs <;> rfl
  · split_ifs <;> rfl

section WholeHeader
variable {i : Instr} {n : Nat} {s t u : State}

/-- A row of events begins with its first event. -/
theorem execTimes_succ (h : exec i s = .next t) (n : Nat) : execTimes i (n + 1) s = execTimes i n t := by
  simp [execTimes, h]

/-- A row of events ends with its last event. -/
theorem execTimes_succ_last (h : execTimes i n s = .next t) : execTimes i (n + 1) s = exec i t := by
  induction n generalizing s with
  | zero =>
    obtain rfl : s = t := Host.Outcome.next.inj h
    obtain ⟨u, hu⟩ := exec_next i s
    rw [execTimes_succ hu, hu, execTimes]
  | succ n ih =>
    obtain ⟨u, hu⟩ := exec_next i s
    rw [execTimes_succ hu] at h ⊢
    exact ih h

/-- t follows s, the start of a header, by n header events of command i: slot 0, bits_rem and known are set once the
classifying sample is among them, wp once the eighth is, and the rest of the frame holds throughout (R62 to R65). -/
structure State.HeaderProgress (s t : State) (i : Instr) (n : Nat) : Prop where
  /-- Every event counts a sample. -/
  hpos : t.hpos = n
  /-- Every event leaves the sampler waiting. -/
  phase : 0 < n → t.phase = .wait
  /-- The classifying event sets the Command Type, the count and known, and no later event touches them. -/
  classified : i.decidedAt ≤ n →
    t.buf.read 0 = code i.command ∧ t.bitsRem = bits (code i.command) ∧ t.known = true
  /-- The eighth event sets wp. -/
  wp : n = 8 → t.wp = s.cfg.captureBase
  /-- No slot but slot 0 changes. -/
  slots : ∀ a, a ≠ 0 → t.buf.read a = s.buf.read a
  /-- The registers that no header event touches, but line_q. -/
  regs : t.mode = s.mode ∧ t.settleCnt = s.settleCnt ∧ t.eidx = s.eidx ∧ t.idleCnt = s.idleCnt ∧
    t.faultCode = s.faultCode ∧ t.cfg = s.cfg ∧ t.sent = s.sent
  /-- Every event uses up one input record. -/
  time : t.inputs = s.inputs.drop n ∧ t.tick = s.tick + n

/-- Before the first event nothing has changed. -/
theorem State.HeaderProgress.start (h : s.hpos = 0) : s.HeaderProgress s i 0 where
  hpos := h
  phase := fun h => absurd h (by omega)
  classified := fun h => by
    have hk := i.decidedAt_bounds
    omega
  wp := fun h => absurd h (by omega)
  slots := fun _ _ => rfl
  regs := ⟨rfl, rfl, rfl, rfl, rfl, rfl, rfl⟩
  time := ⟨rfl, rfl⟩

/-- One more header event takes the header one sample further. -/
theorem State.HeaderProgress.next (h : s.HeaderProgress t i n)
    (ht : t.TakesHeaderSample u i.decidedAt (code i.command) (bits (code i.command))) :
    s.HeaderProgress u i (n + 1) := by
  obtain ⟨⟨hmode, hsettle, heidx, hidle, hfault, hcfg, hsent, hinputs, htick, _⟩, hpos, hphase, hwp, hat, hoff, hslots⟩ := ht
  obtain ⟨hmode', hsettle', heidx', hidle', hfault', hcfg', hsent'⟩ := h.regs
  obtain ⟨hinputs', htick'⟩ := h.time
  rw [h.hpos] at hpos hwp hat hoff
  exact {
    hpos := hpos
    phase := fun _ => hphase
    classified := fun hk => by
      by_cases hnow : n + 1 = i.decidedAt
      · exact hat hnow
      · obtain ⟨hread, hbits, hknown⟩ := hoff hnow
        rw [hread, hbits, hknown]
        exact h.classified (by omega)
    wp := fun h8 => by rw [hwp, if_pos h8, hcfg']
    slots := fun a ha => (hslots a ha).trans (h.slots a ha)
    regs := ⟨hmode.trans hmode', hsettle.trans hsettle', heidx.trans heidx', hidle.trans hidle', hfault.trans hfault',
      hcfg.trans hcfg', hsent.trans hsent'⟩
    time := ⟨by rw [hinputs, hinputs', List.tail_drop], by rw [htick, htick']; omega⟩ }

/-- Up to eight events in a row of one command take the header that far (R65). -/
theorem execTimes_headerProgress (i : Instr) (h0 : s.hpos = 0) (hn : n ≤ 8) :
    ∃ t, execTimes i n s = .next t ∧ s.HeaderProgress t i n := by
  induction n with
  | zero => exact ⟨s, rfl, .start h0⟩
  | succ n ih =>
    obtain ⟨t, ht, hprog⟩ := ih (by omega)
    have hlt : t.hpos < 8 := by rw [hprog.hpos]; omega
    obtain ⟨u, hu, hsample⟩ := exec_takesHeaderSample i hlt
    exact ⟨u, (execTimes_succ_last ht).trans hu, hprog.next hsample⟩

end WholeHeader

/-- Settles O9: all eight events have the classifying one and the eighth among them. -/
theorem wholeHeaderOfEachCommand : Obligations.WholeHeaderOfEachCommand := by
  intro i s h0
  obtain ⟨t, ht, hprog⟩ := execTimes_headerProgress i h0 (le_refl 8)
  obtain ⟨_, hk⟩ := i.decidedAt_bounds
  obtain ⟨htype, hbits, hknown⟩ := hprog.classified hk
  obtain ⟨hmode, hsettle, heidx, hidle, hfault, hcfg, hsent⟩ := hprog.regs
  exact ⟨t, ht, htype, hbits, hknown, hprog.hpos, hprog.phase (by decide), hprog.wp rfl, hprog.slots,
    hmode, hsettle, heidx, hidle, hfault, hcfg, hsent, hprog.time⟩

end Sys2Proof.Machine
end

section
/-! PROOFS. The read phase of spec/41_sampler_capture.md: a capture event in range and the hand-off of the last one (R71, R73,
R88), and a whole frame on the line, header and samples, as the contents of the buffer (R74). -/

namespace Sys2Proof.Machine

section CaptureEvent
variable {s : State}

/-- A sample event with hpos 8 is a capture event (R61). -/
theorem step_capture (hw : s.cfg.Wf) (hs : s.AtSample) (hp : s.hpos = 8) : step s = .next s.captureSample := by
  obtain ⟨hm, hphase, hc, hr⟩ := hs
  rw [step_sample hw hr hm hphase hc, sampleTick, if_neg (by omega), if_pos hp]

/-- Within its range the count is a plain decrement (R16). -/
theorem State.countDown_of_pos (h : 1 ≤ s.bitsRem) : s.countDown = s.bitsRem - 1 := by
  rw [State.countDown, if_neg (by omega)]

/-- A store with bits_rem in its range, written out (R71). -/
theorem State.storeSample_of_bitsRem_pos (h : 1 ≤ s.bitsRem) : s.storeSample = { s.onlyLine with
    buf := s.buf.write s.wp (lvl s.cfg s.input.line), wp := s.wp + 1, bitsRem := s.bitsRem - 1 } := by
  rw [State.storeSample, State.countDown_of_pos h]
  rfl

/-- The buffer after a capture event in range, whether it is the last or not (R71, R88). -/
theorem State.captureSample_buf (hwp : s.wp < s.cfg.bufSlots) :
    s.captureSample.buf = s.buf.write s.wp (lvl s.cfg s.input.line) := by
  rcases State.captureSample_cases s with ⟨hover, _⟩ | ⟨_, _, e⟩ | ⟨_, _, e⟩
  · omega
  · obtain ⟨_, _, _, _, hbuf, _, _⟩ := State.handOff_frame s.storeSample (s.buf.read 0)
    rw [e, hbuf, State.storeSample_buf]
  · rw [e, State.storeSample_buf]

/-- Without an idle delay the hand-off of an unrecognised frame starts the next frame (R88). -/
theorem State.handOff_noDelay {b : Byte} (h : recognized b = false) (hd : s.cfg.idleDelayTicks = 0) :
    s.handOff b = s.enterSample := by
  rw [State.handOff, if_neg (by simp [h]), if_pos hd]

/-- With an idle delay the hand-off of an unrecognised frame begins it (R88). -/
theorem State.handOff_delay {b : Byte} (h : recognized b = false) (hd : 0 < s.cfg.idleDelayTicks) :
    s.handOff b = { s with mode := .idle, idleCnt := s.cfg.idleDelayTicks } := by
  rw [State.handOff, if_neg (by simp [h]), if_neg hd.ne']

/-- The capture event that takes the count from 1 to 0 hands off (R71, R88). -/
theorem State.captureSample_of_bitsRem_one (hwp : s.wp < s.cfg.bufSlots) (h : s.bitsRem = 1) :
    s.captureSample = s.storeSample.handOff (s.buf.read 0) :=
  State.captureSample_last hwp (by rw [State.countDown_of_pos h.ge, h])

/-- t follows s by a capture event that stores its sample in a frame with a Command Type: the sample goes to slot wp, wp and
bits_rem count, and the sampler waits or, after the last sample, the encoder starts (R71, R88). -/
abbrev State.StoresSample (s t : State) : Prop :=
  t.buf = s.buf.write s.wp (lvl s.cfg s.input.line) ∧ t.hpos = s.hpos ∧ t.known = s.known ∧ t.wp = s.wp + 1 ∧
  t.bitsRem = s.bitsRem - 1 ∧ t.inputs = s.inputs.tail ∧ t.sent = s.sent ∧ t.cfg = s.cfg ∧ t.faultCode = s.faultCode ∧
  (2 ≤ s.bitsRem → t.mode = s.mode ∧ t.phase = .wait) ∧ (s.bitsRem = 1 → t.mode = .encode ∧ t.eidx = 0)

/-- A capture event in range stores its sample if slot 0 holds a Command Type. -/
theorem State.captureSample_storesSample (hwp : s.wp < s.cfg.bufSlots) (hpos : 1 ≤ s.bitsRem)
    (hr : recognized (s.buf.read 0) = true) : s.StoresSample s.captureSample := by
  have hc := State.countDown_of_pos hpos
  rcases State.captureSample_cases s with ⟨hover, _⟩ | ⟨_, hz, e⟩ | ⟨_, hz, e⟩
  · omega
  · rw [e, State.handOff_recognized hr]
    exact ⟨rfl, rfl, rfl, rfl, hc, rfl, rfl, rfl, rfl, fun h2 => by omega, fun _ => ⟨rfl, rfl⟩⟩
  · rw [e]
    exact ⟨rfl, rfl, rfl, rfl, hc, rfl, rfl, rfl, rfl, fun _ => ⟨rfl, rfl⟩, fun h1 => by omega⟩

end CaptureEvent

/-- Settles O11: the store is the same in every branch; what comes after it is the wait or one of the three hand-offs. -/
theorem captureSampleStores : Obligations.CaptureSampleStores := by
  intro i s hw hs hp hwp hpos
  have hstore := State.storeSample_of_bitsRem_pos hpos
  refine ⟨s.captureSample, step_capture hw hs hp, exec_capture i hp, ?_, fun a ha => ?_, fun h2 => ?_, fun h1 hr => ?_,
    fun h1 hr hd => ?_, fun h1 hr hd => ?_⟩
  · rw [State.captureSample_buf hwp, Memory.read_write_same]
  · rw [State.captureSample_buf hwp, Memory.read_write_other ha]
  · have hc : s.countDown ≠ 0 := by rw [State.countDown_of_pos hpos]; omega
    rw [State.captureSample_more hwp hc, hstore]
  · rw [State.captureSample_of_bitsRem_one hwp h1, State.handOff_recognized hr, hstore, h1]
  · rw [State.captureSample_of_bitsRem_one hwp h1, State.handOff_noDelay (s := s.storeSample) hr hd, hstore, h1]
    rfl
  · rw [State.captureSample_of_bitsRem_one hwp h1, State.handOff_delay (s := s.storeSample) hr hd, hstore, h1]

section LineScripts
variable {s t : State} {v : Level} {rest : List TickIn}

/-- The state at the sample event to which one cell of the line script leads a sampler that waits: one tick before the cell's
end, with its sample on the line (R60). -/
def State.atCellSample (s : State) (v : Level) (rest : List TickIn) : State :=
  { s with phase := .settle, settleCnt := 1, inputs := ⟨false, v⟩ :: rest, tick := s.tick + (s.cfg.settleTicks + 1),
           lineQ := lastLine false (List.replicate (s.cfg.settleTicks - 1) ⟨false, v⟩) }

/-- One tick before its end the cell has brought the sampler to its sample event: the high tick changes nothing but line_q, the
falling edge is accepted, and the settle interval runs down to 1 (R58, R59, R60). -/
theorem run_atCellSample (hw : s.cfg.Wf) (hm : s.mode = .sample) (hp : s.phase = .wait)
    (hi : s.inputs = sampleCell s.cfg.settleTicks v ++ rest) :
    run (s.cfg.settleTicks + 1) s = .next (s.atCellSample v rest) := by
  have ⟨hpos, _⟩ := hw
  obtain ⟨k, hk⟩ : ∃ k, s.cfg.settleTicks = k + 1 := Nat.exists_eq_add_one.mpr hpos
  replace hi : s.inputs = ⟨false, true⟩ :: ⟨false, false⟩ :: (List.replicate k ⟨false, v⟩ ++ ⟨false, v⟩ :: rest) := by
    rw [hi, hk, sampleCell, List.replicate_succ']
    simp
  have hin : s.input = ⟨false, true⟩ := s.input_cons hi
  have hhigh : step s = .next s.onlyLine := step_wait_noFall hw (by rw [hin]) hm hp (by simp [State.fall, hin])
  have hlow : s.onlyLine.input = ⟨false, false⟩ := s.onlyLine.input_cons (congrArg List.tail hi)
  have hedge := step_wait_fall (s := s.onlyLine) hw (by rw [hlow]) hm hp (by simp [State.fall_iff, hin, hlow])
  have hsettle := run_settle (is := List.replicate k ⟨false, v⟩) (rest := ⟨false, v⟩ :: rest)
    (s := { s.onlyLine.onlyLine with settleCnt := s.cfg.settleTicks, phase := .settle }) hw hm rfl (by simp [hi])
    (by simp [NoReset]) (by simpa using hk)
  rw [List.length_replicate] at hsettle
  rw [hk, run_succ hhigh, run_succ hedge, hsettle]
  simp [State.atCellSample, hk, hlow, Nat.add_comm, Nat.add_left_comm]

/-- A whole cell is one sample event: what the step there answers is the outcome of the cell. -/
theorem run_sampleCell (hw : s.cfg.Wf) (hm : s.mode = .sample) (hp : s.phase = .wait)
    (hi : s.inputs = sampleCell s.cfg.settleTicks v ++ rest) (ht : step (s.atCellSample v rest) = .next t) :
    run (s.cfg.settleTicks + 2) s = .next t := by
  rw [run_add (run_atCellSample hw hm hp hi) 1, run_succ ht, run_zero]

/-- The cell leads to a sample event (R59). -/
theorem State.atCellSample_atSample (s : State) (hm : s.mode = .sample) : (s.atCellSample v rest).AtSample :=
  ⟨hm, rfl, rfl, rfl⟩

/-- A property P of the samples taken so far and the state holds at the end of a line script if every cell of the script keeps
it. -/
theorem run_lineScript {P : List Level → State → Prop} {k : Nat} {all : List Level}
    (hcell : ∀ taken v s rest, taken ++ [v] <+: all → P taken s → s.inputs = sampleCell k v ++ rest →
      ∃ t, run (k + 2) s = .next t ∧ t.inputs = rest ∧ P (taken ++ [v]) t)
    {taken todo : List Level} (hall : taken ++ todo = all) (h : P taken s) (hi : s.inputs = lineScript k todo ++ rest) :
    ∃ t, run (todo.length * (k + 2)) s = .next t ∧ t.inputs = rest ∧ P all t := by
  induction todo generalizing taken s with
  | nil =>
    obtain rfl : taken = all := by simpa using hall
    exact ⟨s, by simp, hi, h⟩
  | cons v todo ih =>
    have hall' : taken ++ [v] ++ todo = all := by simpa using hall
    obtain ⟨t, ht, hti, hPt⟩ := hcell taken v s (lineScript k todo ++ rest) ⟨todo, hall'⟩ h (by simp [hi, lineScript])
    obtain ⟨u, hu, hui, hPu⟩ := ih hall' hPt hti
    refine ⟨u, ?_, hui, hPu⟩
    rw [List.length_cons, Nat.succ_mul, Nat.add_comm, run_add ht, hu]

end LineScripts

section Frames
variable {i : Instr} {s t u : State} {taken : List Level} {v : Level} {rest : List TickIn}

/-- t follows s, the start of a frame of command i, by the first n of its header samples, and waits for the next one (R62 to
R65). -/
structure State.HeaderTaken (s t : State) (i : Instr) (n : Nat) : Prop where
  /-- The sampler waits for an edge. -/
  waits : t.mode = .sample ∧ t.phase = .wait
  /-- The header samples are counted. -/
  hpos : t.hpos = n
  /-- The command is known from its classifying sample on. -/
  known : t.known = decide (i.decidedAt ≤ n)
  /-- The classifying sample sets the Command Type and the count, and no later one touches them. -/
  classified : i.decidedAt ≤ n → t.buf.read 0 = code i.command ∧ t.bitsRem = bits (code i.command)
  /-- The eighth sample sets wp. -/
  wp : n = 8 → t.wp = s.cfg.captureBase
  /-- No slot but slot 0 changes. -/
  slots : ∀ a, a ≠ 0 → t.buf.read a = s.buf.read a
  /-- What the sampler never touches. -/
  frame : t.sent = s.sent ∧ t.cfg = s.cfg ∧ t.faultCode = s.faultCode

/-- At the start of a frame no header sample has been taken (R87). -/
theorem State.HeaderTaken.start (h : s.AtFrameStart) : s.HeaderTaken s i 0 := by
  obtain ⟨hm, hphase, hpos, hknown⟩ := h
  have hd : ¬ i.decidedAt ≤ 0 := by
    have hk := i.decidedAt_bounds
    omega
  exact {
    waits := ⟨hm, hphase⟩
    hpos := hpos
    known := by simp [hknown, hd]
    classified := fun h => absurd h hd
    wp := fun h => absurd h (by decide)
    slots := fun _ _ => rfl
    frame := ⟨rfl, rfl, rfl⟩ }

/-- A header sample event of the command takes the header one sample further (R62, R63). -/
theorem State.HeaderTaken.next {n : Nat} (h : s.HeaderTaken t i n)
    (hu : (t.atCellSample v rest).TakesHeaderSample u i.decidedAt (code i.command) (bits (code i.command))) :
    u.inputs = rest ∧ s.HeaderTaken u i (n + 1) := by
  obtain ⟨⟨hmode, _, _, _, hfault, hcfg, hsent, hinputs, _⟩, hpos, hphase, hwp, hat, hoff, hslots⟩ := hu
  obtain ⟨hm, _⟩ := h.waits
  obtain ⟨hsent', hcfg', hfault'⟩ := h.frame
  have hn : (t.atCellSample v rest).hpos = n := h.hpos
  rw [hn] at hpos hwp hat hoff
  refine ⟨hinputs, {
    waits := ⟨hmode.trans hm, hphase⟩
    hpos := hpos
    known := ?_
    classified := fun hk => ?_
    wp := fun h8 => by rw [hwp, if_pos h8]; exact congrArg Cfg.captureBase hcfg'
    slots := fun a ha => (hslots a ha).trans (h.slots a ha)
    frame := ⟨hsent.trans hsent', hcfg.trans hcfg', hfault.trans hfault'⟩ }⟩
  · by_cases hnow : n + 1 = i.decidedAt
    · obtain ⟨_, _, hknown⟩ := hat hnow
      simp [hknown, hnow]
    · obtain ⟨_, _, hknown⟩ := hoff hnow
      have hiff : i.decidedAt ≤ n ↔ i.decidedAt ≤ n + 1 := by omega
      exact hknown.trans (h.known.trans (by simp only [hiff]))
  · by_cases hnow : n + 1 = i.decidedAt
    · obtain ⟨hread, hbits, _⟩ := hat hnow
      exact ⟨hread, hbits⟩
    · obtain ⟨hread, hbits, _⟩ := hoff hnow
      obtain ⟨hread', hbits'⟩ := h.classified (by omega)
      exact ⟨hread.trans hread', hbits.trans hbits'⟩

/-- A cell with the sample that command i has next takes the header one sample further. -/
theorem State.HeaderTaken.cell (hw : s.cfg.Wf) (hpre : taken ++ [v] <+: encode i) (h : s.HeaderTaken t i taken.length)
    (hi : t.inputs = sampleCell s.cfg.settleTicks v ++ rest) :
    ∃ u, run (s.cfg.settleTicks + 2) t = .next u ∧ u.inputs = rest ∧ s.HeaderTaken u i (taken ++ [v]).length := by
  obtain ⟨hm, hphase⟩ := h.waits
  obtain ⟨_, hcfg, _⟩ := h.frame
  rw [← hcfg] at hw hi ⊢
  have hlt : taken.length < 8 := by simpa [encode, headerSamples] using hpre.length_le
  have hline : (encode i)[taken.length]? = some v := by
    obtain ⟨todo, htodo⟩ := hpre
    simp [← htodo]
  have hpos : (t.atCellSample v rest).hpos = taken.length := h.hpos
  have hcarries : (t.atCellSample v rest).Carries i := ⟨hpos ▸ hlt, hpos ▸ hline, hpos ▸ h.known⟩
  obtain ⟨u, hu, hsample⟩ := exec_takesHeaderSample i hcarries.1
  obtain ⟨hrest, hnext⟩ := h.next hsample
  refine ⟨u, run_sampleCell hw hm hphase hi ?_, hrest, by simpa using hnext⟩
  exact (step_of_carries (s := t.atCellSample v rest) hw (t.atCellSample_atSample hm) hcarries).trans hu

/-- t follows s, the start of a frame of command i, by its header and the samples vs: slot 0 holds the Command Type, slots 2 up
hold the samples, and the last of all N has handed the frame to the encoder (R71, R74, R88). -/
structure State.Captured (s t : State) (i : Instr) (vs : List Level) : Prop where
  /-- The Command Type stands in slot 0. -/
  type : t.buf.read 0 = code i.command
  /-- Sample j stands in slot 2 + j. -/
  stored : ∀ j v, vs[j]? = some v → t.buf.read (2 + j) = lvl s.cfg v
  /-- Every other slot is as before the frame. -/
  others : ∀ a, a ≠ 0 → ¬(2 ≤ a ∧ a < 2 + vs.length) → t.buf.read a = s.buf.read a
  /-- The header is over and has been classified. -/
  header : t.hpos = 8 ∧ t.known = true
  /-- The store pointer and the count have counted the samples. -/
  counts : t.wp = 2 + vs.length ∧ t.bitsRem = bits (code i.command) - vs.length
  /-- What the sampler never touches. -/
  frame : t.sent = s.sent ∧ t.cfg = s.cfg ∧ t.faultCode = s.faultCode
  /-- With fewer than N samples the sampler waits. -/
  waits : vs.length < bits (code i.command) → t.mode = .sample ∧ t.phase = .wait
  /-- With all N samples the frame is handed off. -/
  handedOff : vs.length = bits (code i.command) → t.mode = .encode ∧ t.eidx = 0

/-- After the whole header no sample has been stored. -/
theorem State.HeaderTaken.captured (hw : s.cfg.Wf) (h : s.HeaderTaken t i 8) : s.Captured t i [] := by
  obtain ⟨_, hk⟩ := i.decidedAt_bounds
  obtain ⟨htype, hbits⟩ := h.classified hk
  obtain ⟨hpos, _⟩ := bits_of_recognized (recognized_code i.command)
  exact {
    type := htype
    stored := fun _ _ hv => by simp at hv
    others := fun a ha _ => h.slots a ha
    header := ⟨h.hpos, by simp [h.known, hk]⟩
    counts := ⟨(h.wp rfl).trans (captureBase_eq hw), hbits⟩
    frame := h.frame
    waits := fun _ => h.waits
    handedOff := fun h0 => absurd h0 (show 0 ≠ bits (code i.command) by omega) }

/-- A capture event that stores the sample takes the frame one sample further (R71, R88). -/
theorem State.Captured.next (h : s.Captured t i taken) (hlt : taken.length < bits (code i.command))
    (hu : (t.atCellSample v rest).StoresSample u) : u.inputs = rest ∧ s.Captured u i (taken ++ [v]) := by
  obtain ⟨hbuf, hpos, hknown, hwp, hbits, hinputs, hsent, hcfg, hfault, hmore, hlast⟩ := hu
  obtain ⟨hpos', hknown'⟩ := h.header
  obtain ⟨hwp', hbits'⟩ := h.counts
  obtain ⟨hsent', hcfg', hfault'⟩ := h.frame
  obtain ⟨hm, _⟩ := h.waits hlt
  have hlen : (taken ++ [v]).length = taken.length + 1 := by simp
  have hread (a : Nat) : u.buf.read a = if a = 2 + taken.length then lvl s.cfg v else t.buf.read a := by
    rw [hbuf, Memory.read_write, ← hwp', ← hcfg']
    rfl
  have hrem : (t.atCellSample v rest).bitsRem = bits (code i.command) - taken.length := hbits'
  rw [hrem] at hbits hmore hlast
  refine ⟨hinputs, {
    type := by rw [hread, if_neg (by omega), h.type]
    stored := fun j w hw => ?_
    others := fun a ha hout => by rw [hread, if_neg (by omega), h.others a ha (by omega)]
    header := ⟨hpos.trans hpos', hknown.trans hknown'⟩
    counts := ⟨by rw [hwp, hlen]; exact congrArg (· + 1) hwp', by rw [hbits, hlen]; omega⟩
    frame := ⟨hsent.trans hsent', hcfg.trans hcfg', hfault.trans hfault'⟩
    waits := fun hl => ?_
    handedOff := fun hl => hlast (by omega) }⟩
  · obtain hj | rfl | hj := Nat.lt_trichotomy j taken.length
    · rw [List.getElem?_append_left hj] at hw
      rw [hread, if_neg (by omega), h.stored j w hw]
    · obtain rfl : v = w := by simpa using hw
      rw [hread, if_pos rfl]
    · rw [List.getElem?_eq_none (by omega)] at hw
      cases hw
  · obtain ⟨hmode, hphase⟩ := hmore (by omega)
    exact ⟨hmode.trans hm, hphase⟩

/-- A cell stores its sample as long as samples of the frame are to come. -/
theorem State.Captured.cell (hw : s.cfg.Wf) (hlt : taken.length < bits (code i.command)) (h : s.Captured t i taken)
    (hi : t.inputs = sampleCell s.cfg.settleTicks v ++ rest) :
    ∃ u, run (s.cfg.settleTicks + 2) t = .next u ∧ u.inputs = rest ∧ s.Captured u i (taken ++ [v]) := by
  obtain ⟨hm, hphase⟩ := h.waits hlt
  obtain ⟨hpos, _⟩ := h.header
  obtain ⟨hwp, hbits⟩ := h.counts
  obtain ⟨_, hcfg, _⟩ := h.frame
  rw [← hcfg] at hw hi ⊢
  have hslots := bufSlots_ge hw
  have hcode := recognized_code i.command
  obtain ⟨_, hmax⟩ := bits_of_recognized hcode
  have hstore := State.captureSample_storesSample (s := t.atCellSample v rest)
    (show t.wp < t.cfg.bufSlots by omega) (show 1 ≤ t.bitsRem by omega) (by rw [← h.type] at hcode; exact hcode)
  obtain ⟨hrest, hnext⟩ := h.next hlt hstore
  exact ⟨_, run_sampleCell hw hm hphase hi (step_capture hw (t.atCellSample_atSample hm) hpos), hrest, hnext⟩

end Frames

/-- Settles O41: the eight header cells take the frame to its read phase, and each cell after them stores one sample. -/
theorem sampledFrameFillsBuffer : Obligations.SampledFrameFillsBuffer := by
  intro s i vs rest hw hstart hle hi
  have hscript : s.inputs = lineScript s.cfg.settleTicks (encode i) ++ (lineScript s.cfg.settleTicks vs ++ rest) := by
    rw [hi, lineScript, List.flatMap_append, List.append_assoc]
    rfl
  obtain ⟨t, ht, hti, hheader⟩ := run_lineScript (P := fun taken t => s.HeaderTaken t i taken.length)
    (fun _ _ _ _ hpre h hi => h.cell hw hpre hi) (List.nil_append _) (.start hstart) hscript
  obtain ⟨u, hu, hui, hcaptured⟩ := run_lineScript (P := fun taken u => s.Captured u i taken) (all := vs)
    (fun _ _ _ _ hpre h hi => h.cell hw (Nat.lt_of_lt_of_le (by simpa using hpre.length_le) hle) hi)
    (List.nil_append _) (hheader.captured hw) hti
  have hrun : run ((8 + vs.length) * (s.cfg.settleTicks + 2)) s = .next u := by
    rw [Nat.add_mul]
    exact (run_add ht _).trans hu
  obtain ⟨hpos, hknown⟩ := hcaptured.header
  obtain ⟨hwp, hbits⟩ := hcaptured.counts
  obtain ⟨hsent, hcfg, hfault⟩ := hcaptured.frame
  exact ⟨u, hrun, hcaptured.type, hcaptured.stored, hcaptured.others, hpos, hknown, hwp, hbits, hui, hsent, hcfg, hfault,
    hcaptured.waits, hcaptured.handedOff⟩

end Sys2Proof.Machine
end

section
/-! PROOFS. The compact encoding of spec/42_encoder_compact.md: the length and alphabet of its output list (R79), the encoder's
run over the rest of an output list of either encoding (R90), and the round trip of a whole frame (R80). -/

namespace Sys2Proof.Machine

section CompactAlphabet
variable {c : Cfg} {m : Memory}

/-- A token is one of the two token bytes (R76). -/
theorem token_eq_or (c : Cfg) (v : Byte) : token c v = c.tokenOne ∨ token c v = c.tokenZero :=
  ite_eq_or_eq _ _ _

/-- No token is the terminator (R7). -/
theorem token_ne_tokenSplit (hw : c.Wf) (v : Byte) : token c v ≠ c.tokenSplit := by
  obtain ⟨_, _, _, _, _, _, _, _, _, _, hone, hzero, _⟩ := hw
  rcases token_eq_or c v with h | h <;> rw [h]
  · exact hone.symm
  · exact hzero.symm

/-- The byte after the last token is the terminator (R77). -/
theorem cmpSeq_getElem?_bits (c : Cfg) (m : Memory) : (cmpSeq c m)[bits (m.read 0)]? = some c.tokenSplit := by
  simp [cmpSeq]

/-- The terminator stands once in the compact list, at the end (R79). -/
theorem cmpSeq_getElem?_eq_tokenSplit_iff (hw : c.Wf) (e : Nat) :
    (cmpSeq c m)[e]? = some c.tokenSplit ↔ e = bits (m.read 0) := by
  constructor
  · intro he
    obtain ⟨hlt, _⟩ := List.getElem?_eq_some_iff.mp he
    rw [length_cmpSeq] at hlt
    by_contra hne
    rw [cmpSeq_getElem?_of_lt c (by omega)] at he
    exact token_ne_tokenSplit hw _ (Option.some.inj he)
  · rintro rfl
    exact cmpSeq_getElem?_bits c m

end CompactAlphabet

/-- Settles O38: before index N every element is a token, index N holds the terminator, and the lengths are the table's counts
plus one. -/
theorem compactListLengthAndAlphabet : Obligations.CompactListLengthAndAlphabet := by
  intro c m hw _
  refine ⟨length_cmpSeq c m, fun e he => ?_, cmpSeq_getElem?_eq_tokenSplit_iff hw, ?_, fun h => ?_, fun h => ?_⟩
  · rw [cmpSeq_getElem?_of_lt c he]
    exact (token_eq_or c _).imp (congrArg some) (congrArg some)
  · rintro (h | h)
    · rw [length_cmpSeq, h, bits_code_info]
    · rw [length_cmpSeq, h, bits_code_reset]
  · rw [length_cmpSeq, h, bits_code_poll]
  · rw [length_cmpSeq, h, bits_code_rw]

section EncoderRun
variable {s : State}

/-- What is left of the output list begins with the byte of the encoder tick (R90). -/
theorem State.drop_outList_of_lt (h : s.eidx < (outList s.cfg s.buf).length) :
    (outList s.cfg s.buf).drop s.eidx = s.outByte :: (outList s.cfg s.buf).drop (s.eidx + 1) := by
  rw [State.outByte, List.getElem?_eq_getElem h, Option.getD_some, List.drop_eq_getElem_cons h]

/-- The encoder tick of the last byte sends it and starts the next frame (R90). -/
theorem step_encode_of_last (hw : s.cfg.Wf) (hr : s.input.rst = false) (hm : s.mode = .encode)
    (hl : s.eidx + 1 = (outList s.cfg s.buf).length) :
    step s = .next { s.onlyLine with sent := s.sent ++ [s.outByte] : State }.enterSample := by
  rw [step_encode hw hr hm, encoderTick, if_pos hl]
  rfl

/-- As many ticks as bytes are left, x the first of them, send the rest of the output list in order and start the next frame;
of the line only its last level is left (R89, R90). -/
theorem run_encode {x : TickIn} {is rest : List TickIn} (hw : s.cfg.Wf) (hm : s.mode = .encode)
    (hi : s.inputs = x :: is ++ rest) (hr : NoReset (x :: is))
    (hlen : s.eidx + (x :: is).length = (outList s.cfg s.buf).length) :
    run (x :: is).length s = .next { s with
      inputs := rest, tick := s.tick + (x :: is).length, lineQ := lastLine s.lineQ (x :: is),
      sent := s.sent ++ (outList s.cfg s.buf).drop s.eidx : State }.enterSample := by
  induction is generalizing s x with
  | nil =>
    have hin : s.input = x := s.input_cons hi
    have hx : s.input.rst = false := hin ▸ hr x List.mem_cons_self
    replace hlen : s.eidx + 1 = (outList s.cfg s.buf).length := hlen
    rw [List.length_singleton, run_succ (step_encode_of_last hw hx hm hlen), run_zero, s.drop_outList_of_lt (by omega),
      List.drop_of_length_le hlen.ge]
    simp [hi, hin, lastLine]
  | cons y is ih =>
    obtain ⟨hx, his⟩ := List.forall_mem_cons.mp hr
    have hin : s.input = x := s.input_cons hi
    simp only [List.length_cons] at hlen
    have hstep := step_encode_of_not_last hw (hin ▸ hx) hm (by omega)
    have hrest := ih (s := { s.onlyLine with sent := s.sent ++ [s.outByte], eidx := s.eidx + 1 }) hw hm (by simp [hi]) his
      (by simp only [List.length_cons]; omega)
    rw [List.length_cons, run_succ hstep, hrest, s.drop_outList_of_lt (by omega), lastLine_cons s.lineQ]
    simp [State.enterSample, hin, Nat.add_comm, Nat.add_left_comm]

end EncoderRun

section RoundTrip
variable {c : Cfg} {m : Memory} {vs : List Level}

/-- The token of a stored sample shows its level (R33, R76). -/
theorem token_lvl (hw : c.Wf) (v : Level) : token c (lvl c v) = if v then c.tokenOne else c.tokenZero := by
  rw [token, nz_lvl hw]

/-- The compact list of a buffer that holds a frame: the samples' tokens in time order, then the terminator (R77, R80). -/
theorem cmpSeq_of_stored (hw : c.Wf) (hr : recognized (m.read 0) = true) (hlen : vs.length = bits (m.read 0))
    (hstored : ∀ j v, vs[j]? = some v → m.read (2 + j) = lvl c v) : cmpSeq c m = tokensOf c vs ++ [c.tokenSplit] := by
  have hbase : c.encBase = 2 := by
    obtain ⟨_, _, _, _, hbase, _⟩ := hw
    exact hbase
  rw [cmpSeq, tokensOf]
  congr 1
  refine List.ext_getElem (by simp [hlen]) fun j hj _ => ?_
  replace hj : j < bits (m.read 0) := by simpa using hj
  have hread : m.read (2 + j) = lvl c (vs[j]'(hlen ▸ hj)) := hstored j _ (List.getElem?_eq_getElem _)
  have hload := load_of_recognized hw hr hj
  rw [hbase, hread] at hload
  simp [hbase, hload, token_lvl hw]

end RoundTrip

/-- Settles O42: the sampled frame leaves its samples in the buffer, whose output list is their tokens and the terminator, and
the encoder sends that list whole. -/
theorem compactFrameRoundTrip : Obligations.CompactFrameRoundTrip := by
  intro s i vs quiet rest hw hd hstart hlen hi hr hq
  obtain ⟨t, ht, htype, hstored, _, _, _, _, _, hti, hsent, hcfg, _, _, hlast⟩ :=
    sampledFrameFillsBuffer s i vs (quiet ++ rest) hw hstart hlen.le (by rw [hi, List.append_assoc])
  obtain ⟨hm, he⟩ := hlast hlen
  rw [← hcfg] at hw hd hstored
  have hlist : outList t.cfg t.buf = tokensOf t.cfg vs ++ [t.cfg.tokenSplit] := by
    rw [outList_of_compact hd]
    exact cmpSeq_of_stored hw (by rw [htype, recognized_code]) (by rw [htype, hlen]) hstored
  obtain ⟨x, is, rfl⟩ := List.exists_cons_of_length_eq_add_one hq
  have hencode := run_encode hw hm hti hr (by rw [he, hq, hlist]; simp [tokensOf])
  rw [hq, hlist, he, List.drop_zero] at hencode
  refine ⟨_, (run_add ht _).trans hencode, ?_, ⟨rfl, rfl, rfl, rfl⟩, rfl, hcfg⟩
  simp [hsent, hcfg]

end Sys2Proof.Machine
end

section
/-! PROOFS. The debug encoding of spec/43_encoder_debug.md: the zero test of the slot characters (R76, R82), the decimal text of a
byte (R81), the output list element by element (R83, R84), and a whole frame with the slots it has not written (R85). -/

namespace Sys2Proof.Machine

section SlotCharacters
variable {c : Cfg}

/-- Every reader of a slot asks only whether it is zero (R9). -/
theorem ite_nz {α : Type} (v : Byte) (a b : α) : (if nz v then a else b) = if v = 0x00#8 then b else a := by
  by_cases h : v = 0x00#8 <;> simp [nz, h]

/-- The characters `1` and `0` are fixed (R7, R82). -/
theorem dbgChar_eq (hw : c.Wf) (v : Byte) : dbgChar c v = if v = 0x00#8 then 0x30#8 else 0x31#8 := by
  obtain ⟨_, _, _, _, _, _, _, _, _, _, _, _, hone, hzero⟩ := hw
  rw [dbgChar, ite_nz, hone, hzero]

/-- The character of a stored sample shows its level (R33, R82). -/
theorem dbgChar_lvl (hw : c.Wf) (v : Level) : dbgChar c (lvl c v) = if v then 0x31#8 else 0x30#8 := by
  have ⟨_, _, _, _, _, _, _, _, _, _, _, _, hone, hzero⟩ := hw
  rw [dbgChar, nz_lvl hw, hone, hzero]

end SlotCharacters

/-- Settles O37: both characters are chosen by the zero test alone, and a well-formed configuration fixes the debug pair. -/
theorem slotCharactersTestOnlyZero : Obligations.SlotCharactersTestOnlyZero :=
  fun _ v => ⟨ite_nz v _ _, fun hw => dbgChar_eq hw v⟩

section DecimalText

/-- The character of a digit, as a number (R81). -/
theorem toNat_digit {d : Nat} (h : d < 10) : (digit d).toNat = 0x30 + d := by
  rw [digit, BitVec.toNat_ofNat, Nat.mod_eq_of_lt (by omega)]

/-- What the decimal text of a byte can be, by the number of its digits; every digit is below ten (R81). -/
theorem dec_cases (b : Byte) :
    (∃ x, x < 10 ∧ b.toNat = x ∧ dec b = [digit x]) ∨
    (∃ x y, 0 < x ∧ x < 10 ∧ y < 10 ∧ b.toNat = 10 * x + y ∧ dec b = [digit x, digit y]) ∨
    (∃ x y z, 0 < x ∧ x < 10 ∧ y < 10 ∧ z < 10 ∧ b.toNat = 10 * (10 * x + y) + z ∧
      dec b = [digit x, digit y, digit z]) := by
  have hmax : b.toNat < 256 := b.isLt
  simp only [dec]
  split_ifs with h1 h2
  · exact .inl ⟨_, h1, rfl, rfl⟩
  · exact .inr (.inl ⟨_, _, by omega, by omega, by omega, by omega, rfl⟩)
  · exact .inr (.inr ⟨_, _, _, by omega, by omega, by omega, by omega, by omega, rfl⟩)

/-- The decimal text consists of ASCII digits (R81). -/
theorem dec_isDigit (b : Byte) : ∀ d ∈ dec b, 0x30 ≤ d.toNat ∧ d.toNat ≤ 0x39 := by
  have hdigit {x : Nat} (hx : x < 10) : 0x30 ≤ (digit x).toNat ∧ (digit x).toNat ≤ 0x39 := by
    rw [toNat_digit hx]
    omega
  rcases dec_cases b with ⟨x, hx, _, h⟩ | ⟨x, y, _, hx, hy, _, h⟩ | ⟨x, y, z, _, hx, hy, hz, _, h⟩
  · simp [h, hdigit hx]
  · simp [h, hdigit hx, hdigit hy]
  · simp [h, hdigit hx, hdigit hy, hdigit hz]

/-- Read as a decimal number, the text is the byte (R81). -/
theorem foldl_dec (b : Byte) : (dec b).foldl (fun n d => 10 * n + (d.toNat - 0x30)) 0 = b.toNat := by
  rcases dec_cases b with ⟨x, hx, hb, h⟩ | ⟨x, y, _, hx, hy, hb, h⟩ | ⟨x, y, z, _, hx, hy, hz, hb, h⟩
  · simp [h, hb, toNat_digit hx]
  · simp [h, hb, toNat_digit hx, toNat_digit hy]
  · simp [h, hb, toNat_digit hx, toNat_digit hy, toNat_digit hz]

/-- No leading zero: the number of digits is the least that can write the byte (R81). -/
theorem length_dec (b : Byte) : (dec b).length = if b.toNat ≤ 9 then 1 else if b.toNat ≤ 99 then 2 else 3 := by
  rcases dec_cases b with ⟨x, hx, hb, h⟩ | ⟨x, y, _, hx, hy, hb, h⟩ | ⟨x, y, z, _, hx, hy, hz, hb, h⟩
  · rw [h, if_pos (by omega)]
    rfl
  · rw [h, if_neg (by omega), if_pos (by omega)]
    rfl
  · rw [h, if_neg (by omega), if_neg (by omega)]
    rfl

end DecimalText

/-- Settles O39: the digits, the value and the length of the text by its number of digits; the four texts are computed. -/
theorem decimalTextOfByte : Obligations.DecimalTextOfByte :=
  ⟨fun b => ⟨dec_isDigit b, foldl_dec b, length_dec b⟩, by decide, by decide, by decide, by decide⟩

section DebugList
variable {c : Cfg} {m : Memory}

/-- Byte j of the bit text of the debug list: every ninth byte is a group separator, and the others are the characters of the
slots in order (R84). -/
def dbgTextAt (c : Cfg) (m : Memory) (j : Nat) : Byte :=
  if j % 9 = 8 then c.dbgGroupSep else dbgChar c (m.read (c.dbgBase + (j - j / 9)))

/-- In groups of eight, n bit characters take one byte each and one separator before every group but the first (R83, R84). -/
theorem flatMap_dbgItem (hg : c.dbgGroup = 8) (n : Nat) :
    (List.range n).flatMap (dbgItem c m) = (List.range (n + (n - 1) / 8)).map (dbgTextAt c m) := by
  induction n with
  | zero => rfl
  | succ n ih =>
    rw [List.range_succ, List.flatMap_append, ih, List.flatMap_singleton, dbgItem, hg]
    by_cases hsep : 0 < n ∧ n % 8 = 0
    · have hlen : n + 1 + n / 8 = n + (n - 1) / 8 + 1 + 1 := by omega
      have hslot : n + (n - 1) / 8 + 1 - (n + (n - 1) / 8 + 1) / 9 = n := by omega
      have hsep' : dbgTextAt c m (n + (n - 1) / 8) = c.dbgGroupSep := if_pos (by omega)
      have hchar : dbgTextAt c m (n + (n - 1) / 8 + 1) = dbgChar c (m.read (c.dbgBase + n)) := by
        rw [dbgTextAt, if_neg (by omega), hslot]
      simp [hlen, List.range_succ, hsep, hsep', hchar]
    · have hlen : n + 1 + n / 8 = n + (n - 1) / 8 + 1 := by omega
      have hslot : n + (n - 1) / 8 - (n + (n - 1) / 8) / 9 = n := by omega
      have hchar : dbgTextAt c m (n + (n - 1) / 8) = dbgChar c (m.read (c.dbgBase + n)) := by
        rw [dbgTextAt, if_neg (by omega), hslot]
      simp [hlen, List.range_succ, hsep, hchar]

/-- The debug list in its four parts, the bit text byte by byte (R83, R84). -/
theorem dbgSeq_eq (hw : c.Wf) (m : Memory) :
    dbgSeq c m = dec (m.read 0) ++ c.dbgFieldSep :: ((List.range 35).map (dbgTextAt c m) ++ [c.dbgNewline]) := by
  obtain ⟨_, _, _, _, _, _, hbits, hgroup, _⟩ := hw
  simp [dbgSeq, hbits, flatMap_dbgItem hgroup]

/-- The text, the field separator, 32 characters with three separators, and the newline (R84). -/
theorem length_dbgSeq (hw : c.Wf) (m : Memory) : (dbgSeq c m).length = (dec (m.read 0)).length + 37 := by
  simp [dbgSeq_eq hw]

/-- Past the decimal text the debug list is read off its other parts (R84). -/
theorem dbgSeq_getElem?_add (hw : c.Wf) (m : Memory) (k : Nat) : (dbgSeq c m)[(dec (m.read 0)).length + k]? =
    (c.dbgFieldSep :: ((List.range 35).map (dbgTextAt c m) ++ [c.dbgNewline]))[k]? := by
  rw [dbgSeq_eq hw, List.getElem?_append_right (by omega), Nat.add_sub_cancel_left]

end DebugList

/-- Settles O40: the decimal text comes first, and behind it the separator, the bit text and the newline stand at their
offsets. -/
theorem debugListByPosition : Obligations.DebugListByPosition := by
  intro c m hw
  refine ⟨length_dbgSeq hw m, fun e he => ?_, dbgSeq_getElem?_add hw m 0, fun j hj => ?_, ?_, ?_, fun h => ?_⟩
  · rw [dbgSeq_eq hw, List.getElem?_append_left he]
  · rw [Nat.add_assoc, Nat.add_comm 1 j, dbgSeq_getElem?_add hw, List.getElem?_cons_succ,
      List.getElem?_append_left (by simpa using hj), List.getElem?_map, List.getElem?_range hj]
    rfl
  · simp [dbgSeq_getElem?_add hw]
  · rintro (h | h | h) <;> rw [length_dbgSeq hw, h] <;> rfl
  · rw [length_dbgSeq hw, h]
    rfl

section DebugFrame
variable {c : Cfg} {m old : Memory} {vs : List Level}

/-- Bit character j of a frame with the samples vs: the level of sample j where the frame has one, otherwise the slot as it stood
in the buffer before the frame (R85). -/
def frameChar (vs : List Level) (old : Memory) (j : Nat) : Byte :=
  ((vs[j]?).map (fun v => if v then 0x31#8 else 0x30#8)).getD (if old.read (2 + j) = 0x00#8 then 0x30#8 else 0x31#8)

/-- In a buffer that holds the samples and is otherwise the old one, slot 2 + j shows as bit character j of the frame (R85). -/
theorem dbgChar_eq_frameChar (hw : c.Wf) (hstored : ∀ j v, vs[j]? = some v → m.read (2 + j) = lvl c v)
    (hothers : ∀ a, a ≠ 0 → ¬(2 ≤ a ∧ a < 2 + vs.length) → m.read a = old.read a) (j : Nat) :
    dbgChar c (m.read (2 + j)) = frameChar vs old j := by
  rw [frameChar]
  cases hv : vs[j]? with
  | some v => rw [hstored j v hv, dbgChar_lvl hw, Option.map_some, Option.getD_some]
  | none =>
    have hpast : vs.length ≤ j := List.getElem?_eq_none_iff.mp hv
    rw [hothers (2 + j) (by omega) (by omega), dbgChar_eq hw, Option.map_none, Option.getD_none]

/-- The debug list of a buffer that holds a frame (R83, R85). -/
theorem dbgSeq_of_stored (hw : c.Wf) (hstored : ∀ j v, vs[j]? = some v → m.read (2 + j) = lvl c v)
    (hothers : ∀ a, a ≠ 0 → ¬(2 ≤ a ∧ a < 2 + vs.length) → m.read a = old.read a) :
    dbgSeq c m = dec (m.read 0) ++ [c.dbgFieldSep] ++ (List.range 32).flatMap (fun j =>
      (if 0 < j ∧ j % 8 = 0 then [c.dbgGroupSep] else []) ++ [frameChar vs old j]) ++ [c.dbgNewline] := by
  have hchar := dbgChar_eq_frameChar hw hstored hothers
  obtain ⟨_, _, _, _, _, hbase, hbits, hgroup, _⟩ := hw
  have hitem : dbgItem c m = fun j => (if 0 < j ∧ j % 8 = 0 then [c.dbgGroupSep] else []) ++ [frameChar vs old j] := by
    funext j
    rw [dbgItem, hgroup, hbase, hchar]
  rw [dbgSeq, hbits, hitem]

/-- The output list of a debug build (R55). -/
theorem outList_of_debug (h : c.debugEncoding = true) (m : Memory) : outList c m = dbgSeq c m := if_pos h

end DebugFrame

/-- Settles O43: the sampled frame writes slot 0 and the slots of its own samples only, so its debug list shows the older slots
behind them, and the encoder sends that list whole. -/
theorem debugFrameShowsStaleSlots : Obligations.DebugFrameShowsStaleSlots := by
  intro s i vs quiet rest hw hd hstart hlen hi hr hq
  obtain ⟨t, ht, htype, hstored, hothers, _, _, _, _, hti, hsent, hcfg, _, _, hlast⟩ :=
    sampledFrameFillsBuffer s i vs (quiet ++ rest) hw hstart hlen.le (by rw [hi, List.append_assoc])
  obtain ⟨hm, he⟩ := hlast hlen
  rw [← hcfg] at hw hd hstored
  have hlist : outList t.cfg t.buf = dbgSeq t.cfg t.buf := outList_of_debug hd t.buf
  have hcount : t.eidx + quiet.length = (outList t.cfg t.buf).length := by
    rw [he, hq, hlist, length_dbgSeq hw, htype, Nat.zero_add]
  obtain ⟨x, is, rfl⟩ := List.exists_cons_of_length_eq_add_one hq
  have hencode := run_encode hw hm hti hr hcount
  rw [hlist, he, List.drop_zero, dbgSeq_of_stored hw hstored hothers, htype, hsent, hcfg] at hencode
  refine ⟨_, (run_add ht _).trans hencode, ?_, ⟨rfl, rfl, rfl, rfl⟩, rfl, rfl⟩
  simp [frameChar]

end Sys2Proof.Machine
end

section
/-! PROOFS. The frame sequencer of spec/44_sequencer.md: the encoder tick and a whole output list (R89, R90), the idle delay (R91),
and what every tick does: it answers a next state, takes one input record and leaves the configuration alone (R26, R86, R100). -/

namespace Sys2Proof.Machine

section EncoderTick
variable {s : State} {b : Byte}

/-- The encoder's byte is element eidx of the output list, where the list has one (R90). -/
theorem State.outByte_of_getElem? (h : (outList s.cfg s.buf)[s.eidx]? = some b) : s.outByte = b := by
  rw [State.outByte, h, Option.getD_some]

end EncoderTick

/-- Settles O22: in ENCODE without reset the port carries the encoder's byte, and R90's test for the last element decides
between the two next states. -/
theorem encoderTickSendsOneByte : Obligations.EncoderTickSendsOneByte := by
  intro s b hw hr hm hb
  have hvalid : s.txValid = true := s.txValid_iff.mpr ⟨hm, hr⟩
  obtain rfl : s.outByte = b := State.outByte_of_getElem? hb
  exact ⟨hvalid, State.txData_of_txValid hvalid, step_encode_of_last hw hr hm, step_encode_of_not_last hw hr hm⟩

/-- Settles O23: the run of the encoder to the end of its list, read off field by field. -/
theorem encodingSendsOutputList : Obligations.EncodingSendsOutputList := by
  intro s is rest hw hm hi hr hlen hne
  obtain ⟨x, is, rfl⟩ := List.exists_cons_of_ne_nil hne
  exact ⟨_, run_encode hw hm hi hr hlen, rfl, ⟨rfl, rfl, rfl, rfl⟩, rfl, rfl, rfl, rfl, rfl⟩

/-- Settles O24: the next state exists in every mode, and the stream grows by what stands at the port, which is one byte or
none. -/
theorem everyTickAnswersANextState : Obligations.EveryTickAnswersANextState := by
  intro s hw
  obtain ⟨t, ht⟩ := step_next_of_wf hw
  obtain ⟨_, hsent⟩ := outputStreamIsThePortsBytes s t ht
  refine ⟨t, ht, ?_⟩
  split_ifs at hsent
  · exact .inr ⟨s.txData, hsent⟩
  · exact .inl (by simpa using hsent)

section IdleDelay
variable {s : State} {is rest : List TickIn}

/-- The last tick of a stretch leaves its own level in line_q (R19). -/
theorem lastLine_concat (q : Level) (is : List TickIn) (x : TickIn) : lastLine q (is ++ [x]) = x.line := by
  simp [lastLine]

/-- The idle delay counts down to 1 (R91). -/
theorem step_idle_countDown (hw : s.cfg.Wf) (hr : s.input.rst = false) (hm : s.mode = .idle) (hc : 1 < s.idleCnt) :
    step s = .next { s.onlyLine with idleCnt := s.idleCnt - 1 } := by
  rw [step_idle hw hr hm, idleTick, if_neg hc.not_ge]
  rfl

/-- The last tick of the idle delay starts the next frame; a delay of 0 has it as well (R91). -/
theorem step_idle_of_last (hw : s.cfg.Wf) (hr : s.input.rst = false) (hm : s.mode = .idle) (hc : s.idleCnt ≤ 1) :
    step s = .next s.onlyLine.enterSample := by
  rw [step_idle hw hr hm, idleTick, if_pos hc]
  rfl

/-- The idle delay before its last tick: it only counts down, and of the line its last level is left in line_q (R91, R19). -/
theorem run_idle_countDown (hw : s.cfg.Wf) (hm : s.mode = .idle) (hi : s.inputs = is ++ rest) (hr : NoReset is)
    (hc : is.length < max 1 s.idleCnt) :
    run is.length s = .next { s with
      inputs := rest, tick := s.tick + is.length, lineQ := lastLine s.lineQ is, idleCnt := s.idleCnt - is.length } := by
  induction is generalizing s with
  | nil =>
    obtain rfl : s.inputs = rest := hi
    rfl
  | cons x is ih =>
    obtain ⟨hx, his⟩ := List.forall_mem_cons.mp hr
    have hin : s.input = x := s.input_cons hi
    rw [List.length_cons] at hc
    have hrest := ih (s := { s.onlyLine with idleCnt := s.idleCnt - 1 }) hw hm (by simp [hi]) his (by dsimp only; omega)
    rw [List.length_cons, run_succ (step_idle_countDown hw (hin ▸ hx) hm (by omega)), hrest]
    dsimp only
    rw [hin, lastLine_cons, Nat.sub_sub, Nat.add_assoc, Nat.add_comm 1]

/-- The whole idle delay: the countdown, then the tick x that starts the next frame (R91). -/
theorem run_idle {x : TickIn} (hw : s.cfg.Wf) (hm : s.mode = .idle) (hi : s.inputs = is ++ [x] ++ rest)
    (hr : NoReset (is ++ [x])) (hc : (is ++ [x]).length = max 1 s.idleCnt) :
    run (is ++ [x]).length s = .next { s with
      inputs := rest, tick := s.tick + (is ++ [x]).length, lineQ := lastLine s.lineQ (is ++ [x]) : State }.enterSample := by
  obtain ⟨his, hx⟩ := List.forall_mem_append.mp hr
  rw [List.append_assoc] at hi
  rw [List.length_append, List.length_singleton] at hc ⊢
  have hcount := run_idle_countDown hw hm hi his (by omega)
  have hlast := step_idle_of_last (s := { s with
    inputs := [x] ++ rest, tick := s.tick + is.length, lineQ := lastLine s.lineQ is, idleCnt := s.idleCnt - is.length })
    hw (hx x List.mem_cons_self) hm (by dsimp only; omega)
  rw [run_add hcount, run_succ hlast, run_zero, lastLine_concat]
  rfl

end IdleDelay

/-- Settles O26: fewer ticks than the delay has are its countdown, and exactly as many end in the tick that starts the next
frame. -/
theorem idleDelayLastsItsTicks : Obligations.IdleDelayLastsItsTicks := by
  intro s is rest hw hm hi hr
  refine ⟨run_idle_countDown hw hm hi hr, fun hc => ?_⟩
  have hne : is ≠ [] := List.ne_nil_of_length_pos (by omega)
  obtain ⟨is, x, rfl⟩ := is.eq_nil_or_concat'.resolve_left hne
  exact run_idle hw hm hi hr hc

section EveryTick
variable {s t : State}

/-- t follows s by one tick: the input record is used up, the tick number counts, the configuration stays (R5, R26). -/
abbrev State.TakesInput (s t : State) : Prop :=
  t.inputs = s.inputs.tail ∧ t.tick = s.tick + 1 ∧ t.cfg = s.cfg

/-- A capture event is one tick, whichever way it goes (R71). -/
theorem State.captureSample_takesInput (s : State) : s.TakesInput s.captureSample := by
  rcases State.captureSample_cases s with ⟨_, e⟩ | ⟨_, _, e⟩ | ⟨_, _, e⟩
  · rw [e]
    exact ⟨rfl, rfl, rfl⟩
  · obtain ⟨_, hinputs, htick, hcfg, _, _, _⟩ := State.handOff_frame s.storeSample (s.buf.read 0)
    rw [e]
    exact ⟨hinputs, htick, hcfg⟩
  · rw [e]
    exact ⟨rfl, rfl, rfl⟩

/-- The sampler cannot stall the tick (R100). -/
theorem samplerTick_takesInput (h : samplerTick s = .next t) : s.TakesInput t := by
  rcases samplerTick_cases h with ⟨_, _, rfl⟩ | ⟨_, _, rfl⟩ | ⟨_, _, rfl⟩ | ⟨_, _, rfl⟩ | ⟨_, _, hp, hs⟩ | ⟨_, _, _, rfl⟩
  · exact ⟨rfl, rfl, rfl⟩
  · exact ⟨rfl, rfl, rfl⟩
  · exact ⟨rfl, rfl, rfl⟩
  · exact ⟨rfl, rfl, rfl⟩
  · rcases sampleTick_header_cases hp hs with rfl | ⟨c, _, _, rfl⟩ <;> exact ⟨rfl, rfl, rfl⟩
  · exact s.captureSample_takesInput

/-- No mode can stall the tick (R86, R100). -/
theorem modeTick_takesInput (h : modeTick s = .next t) : s.TakesInput t := by
  rcases modeTick_cases h with ⟨_, ht⟩ | ⟨_, ht⟩ | ⟨_, ht⟩ | ⟨_, rfl⟩
  · exact samplerTick_takesInput ht
  · rcases encoderTick_cases ht with ⟨_, rfl⟩ | ⟨_, rfl⟩ <;> exact ⟨rfl, rfl, rfl⟩
  · rcases idleTick_cases ht with ⟨_, rfl⟩ | ⟨_, rfl⟩ <;> exact ⟨rfl, rfl, rfl⟩
  · exact ⟨rfl, rfl, rfl⟩

end EveryTick

/-- Settles O29: time passes in the reset tick and in every mode's tick alike, and none of them writes a parameter. -/
theorem everyTickTakesOneInput : Obligations.EveryTickTakesOneInput := by
  intro s t h
  obtain ⟨_, ⟨_, rfl⟩ | ⟨_, ht⟩⟩ := step_cases h
  · exact ⟨rfl, rfl, rfl⟩
  · exact modeTick_takesInput ht

end Sys2Proof.Machine
end

section
/-! PROOFS. The exceptions of spec/60_exceptions.md: the overrun and its fault state (R96, R97), why no run from the invariant
gets there (R98, R92), the silent line (R99), and how each mode is left (R102). -/

namespace Sys2Proof.Machine

section InvariantRuns
variable {s : State}

/-- A run of any length from the invariant answers a next state, which has the invariant (R30). -/
theorem State.Inv.run (h : s.Inv) (n : Nat) : ∃ t, run n s = .next t ∧ t.Inv := by
  induction n generalizing s with
  | zero => exact ⟨s, rfl, h⟩
  | succ n ih =>
    obtain ⟨u, hu⟩ := step_next_of_wf h.cfgWf
    rw [run_succ hu]
    exact ih (h.step hu)

end InvariantRuns

/-- Settles O34: the invariant of R30 goes along every run, and it excludes both modes. -/
theorem faultAndIdleAreUnreachable : Obligations.FaultAndIdleAreUnreachable := by
  intro n s h
  obtain ⟨t, hrun, ht⟩ := h.run n
  have hlive := ht.modeLive
  refine ⟨t, hrun, fun hm => ?_, fun hm => ?_, ht.noFault, ht.wpLe, ht.eidxLe⟩
  · simp [hm] at hlive
  · simp [hm] at hlive

section Overrun
variable {s : State}

/-- A capture event at or past BUF_SLOTS enters FAULT in place of the store; the record lists all that changes (R95, R96). -/
theorem State.captureSample_overrun (h : s.cfg.bufSlots ≤ s.wp) :
    s.captureSample = { s.onlyLine with mode := .fault, faultCode := 1 } := by
  rw [State.captureSample, if_pos h]
  rfl

end Overrun

/-- Settles O12: step and exec both run the capture event, and its overrun check comes before the store. -/
theorem overrunEntersFaultState : Obligations.OverrunEntersFaultState := by
  intro i s hw hs hp hover
  have hfault := State.captureSample_overrun hover
  have hquiet : s.txValid = false := by
    obtain ⟨hm, _⟩ := hs
    simp [State.txValid, hm]
  refine ⟨s.captureSample, step_capture hw hs hp, exec_capture i hp, hfault, ?_, ?_, hquiet⟩
  · rw [hfault]
    rfl
  · rw [hfault]
    rfl

section StandingStill
variable {s : State} {is rest : List TickIn}

/-- A stretch of ticks each of which changes only line_q, as a whole. `Q u is` says that the ticks with the inputs `is`, run
from u, are such a stretch. -/
theorem run_onlyLine {Q : State → List TickIn → Prop}
    (hstep : ∀ u x is, u.input = x → Q u (x :: is) → step u = .next u.onlyLine ∧ Q u.onlyLine is)
    (hi : s.inputs = is ++ rest) (h : Q s is) :
    run is.length s = .next { s with inputs := rest, tick := s.tick + is.length, lineQ := lastLine s.lineQ is } := by
  induction is generalizing s with
  | nil =>
    obtain rfl : s.inputs = rest := hi
    rfl
  | cons x is ih =>
    have hin : s.input = x := s.input_cons hi
    obtain ⟨hs, hnext⟩ := hstep s x is hin h
    have hrest := ih (s := s.onlyLine) (by simp [hi]) hnext
    rw [List.length_cons, run_succ hs, hrest]
    dsimp only
    rw [hin, lastLine_cons, Nat.add_assoc, Nat.add_comm 1]

/-- A sampler that waits on a line without a falling edge (R99). -/
abbrev State.WaitsOnSilence (s : State) (is : List TickIn) : Prop :=
  s.cfg.Wf ∧ s.mode = .sample ∧ s.phase = .wait ∧ NoFall s.lineQ is

/-- Without a falling edge the sampler goes on waiting, on the rest of the same silent line (R58, R99). -/
theorem State.WaitsOnSilence.step {x : TickIn} (hin : s.input = x) (h : s.WaitsOnSilence (x :: is)) :
    step s = .next s.onlyLine ∧ s.onlyLine.WaitsOnSilence is := by
  subst hin
  obtain ⟨hw, hm, hp, hr, hedge, hrest⟩ := h
  have hfall : ¬ s.fall = true := fun hf => hedge (s.fall_iff.mp hf)
  exact ⟨step_wait_noFall hw hr hm hp hfall, hw, hm, hp, hrest⟩

/-- A machine in FAULT that is not reset (R97). -/
abbrev State.StaysInFault (s : State) (is : List TickIn) : Prop := s.cfg.Wf ∧ s.mode = .fault ∧ NoReset is

/-- A tick without reset leaves the machine in FAULT (R97). -/
theorem State.StaysInFault.step {x : TickIn} (hin : s.input = x) (h : s.StaysInFault (x :: is)) :
    step s = .next s.onlyLine ∧ s.onlyLine.StaysInFault is := by
  subst hin
  obtain ⟨hw, hm, hr⟩ := h
  obtain ⟨hx, his⟩ := List.forall_mem_cons.mp hr
  exact ⟨step_fault hw hx hm, hw, hm, his⟩

end StandingStill

/-- Settles O20: every tick of the silent line is a waiting tick without an edge. -/
theorem silentLineWaitsForever : Obligations.SilentLineWaitsForever :=
  fun _ _ _ hw hm hp hi hline => run_onlyLine (fun _ _ _ => State.WaitsOnSilence.step) hi ⟨hw, hm, hp, hline⟩

/-- Settles O21: every tick without reset is a tick of the fault state, and the reset tick does not ask for the mode. -/
theorem faultStateIsFinal : Obligations.FaultStateIsFinal :=
  ⟨fun _ _ _ hw hm hi hr => run_onlyLine (fun _ _ _ => State.StaysInFault.step) hi ⟨hw, hm, hr⟩,
    fun s hw _ hr => ⟨s.resetTick, step_reset hw hr, rfl, rfl⟩⟩

section Modes
variable {s t : State}

/-- The sampler keeps its mode in every tick but a capture event (R102). -/
theorem samplerTick_mode (hm : s.mode = .sample) (h : samplerTick s = .next t) :
    t.mode = .sample ∨ (s.phase = .settle ∧ s.settleCnt = 1 ∧ s.hpos = 8) := by
  rcases samplerTick_cases h with ⟨_, _, rfl⟩ | ⟨_, _, rfl⟩ | ⟨_, _, rfl⟩ | ⟨_, _, rfl⟩ | ⟨_, _, hp, hs⟩ | ⟨hp, hc, h8, _⟩
  · exact .inl hm
  · exact .inl hm
  · exact .inl hm
  · exact .inl hm
  · rcases sampleTick_header_cases hp hs with rfl | ⟨c, _, _, rfl⟩ <;> exact .inl hm
  · exact .inr ⟨hp, hc, h8⟩

/-- SAMPLE is left only by a capture event; a reset tick ends in it (R102, R105). -/
theorem step_mode_of_sample (hm : s.mode = .sample) (h : step s = .next t) :
    t.mode = .sample ∨ (s.phase = .settle ∧ s.settleCnt = 1 ∧ s.hpos = 8) := by
  obtain ⟨_, ⟨_, rfl⟩ | ⟨_, htick⟩⟩ := step_cases h
  · exact .inl rfl
  · exact samplerTick_mode hm (by simpa [modeTick, hm] using htick)

/-- ENCODE goes on or starts the next frame (R90, R102). -/
theorem step_mode_of_encode (hr : s.input.rst = false) (hm : s.mode = .encode) (h : step s = .next t) :
    t.mode = .encode ∨ t.mode = .sample := by
  obtain ⟨hw, _⟩ := step_cases h
  rw [step_encode hw hr hm] at h
  rcases encoderTick_cases h with ⟨_, rfl⟩ | ⟨_, rfl⟩
  · exact .inr rfl
  · exact .inl hm

/-- IDLE goes on or starts the next frame (R91, R102). -/
theorem step_mode_of_idle (hr : s.input.rst = false) (hm : s.mode = .idle) (h : step s = .next t) :
    t.mode = .idle ∨ t.mode = .sample := by
  obtain ⟨hw, _⟩ := step_cases h
  rw [step_idle hw hr hm] at h
  rcases idleTick_cases h with ⟨_, rfl⟩ | ⟨_, rfl⟩
  · exact .inr rfl
  · exact .inl hm

/-- FAULT stays (R97, R102). -/
theorem step_mode_of_fault (hr : s.input.rst = false) (hm : s.mode = .fault) (h : step s = .next t) : t.mode = .fault := by
  obtain ⟨hw, _⟩ := step_cases h
  rw [step_fault hw hr hm] at h
  cases h
  exact hm

/-- A reset tick ends in SAMPLE (R105). -/
theorem step_mode_of_reset (hr : s.input.rst = true) (h : step s = .next t) : t.mode = .sample := by
  obtain ⟨hw, _⟩ := step_cases h
  rw [step_reset hw hr] at h
  cases h
  rfl

/-- Outside ENCODE the output stream stands still (R11). -/
theorem step_sent_of_not_encode (hm : s.mode ≠ .encode) (h : step s = .next t) : t.sent = s.sent := by
  obtain ⟨hvalid, hsent⟩ := outputStreamIsThePortsBytes s t h
  have hquiet : ¬ s.txValid = true := fun hv => hm (hvalid.mp hv).1
  rw [hsent, if_neg hquiet, List.append_nil]

/-- Outside SAMPLE the buffer stands still (R13, R37). -/
theorem step_buf_of_not_sample (hm : s.mode ≠ .sample) (h : step s = .next t) : t.buf = s.buf := by
  obtain ⟨_, hbuf | ⟨⟨hsample, _⟩, _⟩⟩ := step_bufferWrite h
  · exact hbuf
  · exact absurd hsample hm

end Modes

/-- Settles O30: the two status outputs are tests of mode, and each other clause is the rule of one mode's tick. -/
theorem modesChangeOnlyAsListed : Obligations.ModesChangeOnlyAsListed := by
  intro s t h
  refine ⟨by simp [State.sampling], by simp [State.faultOut], fun hr => step_mode_of_reset hr h,
    fun hr hm => step_mode_of_encode hr hm h, fun hr hm => step_mode_of_idle hr hm h,
    fun hr hm => step_mode_of_fault hr hm h, fun hne hm => ?_, fun hm => step_sent_of_not_encode hm h,
    fun hm => step_buf_of_not_sample hm h⟩
  rcases step_mode_of_sample hm h with hsame | hevent
  · exact absurd (hsame.trans hm.symm) hne
  · exact hevent

end Sys2Proof.Machine
end

section
/-! PROOFS. The reset tick (spec/70_reset_and_hazards.md R105): the registers of R29's table in every state, and a quiet port. -/

namespace Sys2Proof.Machine

section ResetTick
variable {s : State}

/-- A reset tick puts nothing at the output port, in ENCODE either (R11, R105). -/
theorem State.txValid_of_reset (hr : s.input.rst = true) : s.txValid = false := by
  simp [State.txValid, hr]

@[simp] theorem State.resetTick_sampling : s.resetTick.sampling = true := rfl
@[simp] theorem State.resetTick_faultOut : s.resetTick.faultOut = false := rfl

end ResetTick

/-- Settles O14: the step is `resetTick`, which fixes every register by itself but `wp`; that one is CAPTURE_BASE, which a
well-formed configuration puts at slot 2 (R7). -/
theorem resetTickForcesResetState : Obligations.ResetTickForcesResetState := by
  intro s hw hr
  have hstep : step s = .next s.resetTick := step_reset hw hr
  have hbase : s.cfg.captureBase = 2 := captureBase_eq hw
  have hport : s.txValid = false := State.txValid_of_reset hr
  refine ⟨s.resetTick, hstep, ?_⟩
  simp [hbase, hport]

end Sys2Proof.Machine
end
